-- ==== Sys2Proof/Word.lean ====
section
/-! DEFINITION. The two word types of the block: a Bus datum is a byte, an address and every 16-bit register is a
word (`00_scope.md` rule R7). -/

namespace Sys2Proof

/-- One byte: a general register, a Bus datum (rule R7). -/
abbrev Byte := BitVec 8

/-- Sixteen bits: PC, SP, a register pair, a Bus address (rule R7). -/
abbrev Word := BitVec 16

/-- A 2-bit display value, 0 lightest to 3 darkest (rule R21, "shade"). -/
abbrev Shade := BitVec 2

end Sys2Proof
end

