-- ==== Sys2Proof/Syntax.lean ====
section
/-! DEFINITION. The instructions of the block: one constructor of `Instr` per row of `spec/opcode_table.json`, in the
table's order. Operand codes (`30_encoding.md` rules R203 to R206) are constructors here, so that no later layer sees a
raw register or condition number. An 8-bit operand "r" is never code 6: the `(HL)` forms are constructors of their
own, as they are rows of their own in the table. -/

namespace Sys2Proof

/-- The seven registers an 8-bit operand code names (rule R203, codes 0 to 5 and 7). -/
inductive Reg8 where
  | b | c | d | e | h | l | a
  deriving DecidableEq, Repr

/-- The 16-bit operands of `LD rr,nn`, `INC rr`, `DEC rr`, `ADD HL,rr` (rule R204). -/
inductive Reg16 where
  | bc | de | hl | sp
  deriving DecidableEq, Repr

/-- The pairs of `PUSH rr` and `POP rr` (rule R205, codes 0 to 2; code 3, AF, has rows of its own). -/
inductive PairReg where
  | bc | de | hl
  deriving DecidableEq, Repr

/-- The branch conditions (rule R206). -/
inductive Cond where
  | nz | z | nc | c
  deriving DecidableEq, Repr

/-- A bit number 0 to 7, 0 the least significant (rule R208). -/
abbrev BitNo := BitVec 3

/-- The field `ttt` of `RST`: the target is eight times it (rule R209). -/
abbrev RstNo := BitVec 3

/-- One constructor per row of `spec/opcode_table.json`. Immediates are as fetched: `n` and the raw displacement byte
`e` one byte, `nn` sixteen bits (rule R210). -/
inductive Instr where
  /-- `LD r,r'` (rule R250). -/
  | ldRR (dst : Reg8) (src : Reg8)
  /-- `LD r,n` (rule R251). -/
  | ldRN (dst : Reg8) (n : Byte)
  /-- `LD r,(HL)` (rule R252). -/
  | ldRHl (dst : Reg8)
  /-- `LD (HL),r` (rule R253). -/
  | ldHlR (r : Reg8)
  /-- `LD (HL),n` (rule R254). -/
  | ldHlN (n : Byte)
  /-- `LD A,(BC)` (rule R255). -/
  | ldABc
  /-- `LD A,(DE)` (rule R256). -/
  | ldADe
  /-- `LD (BC),A` (rule R257). -/
  | ldBcA
  /-- `LD (DE),A` (rule R258). -/
  | ldDeA
  /-- `LD A,(nn)` (rule R259). -/
  | ldANn (nn : Word)
  /-- `LD (nn),A` (rule R260). -/
  | ldNnA (nn : Word)
  /-- `LDH A,(C)` (rule R261). -/
  | ldhAC
  /-- `LDH (C),A` (rule R262). -/
  | ldhCA
  /-- `LDH A,(n)` (rule R263). -/
  | ldhAN (n : Byte)
  /-- `LDH (n),A` (rule R264). -/
  | ldhNA (n : Byte)
  /-- `LD A,(HL-)` (rule R265). -/
  | ldAHlDec
  /-- `LD (HL-),A` (rule R266). -/
  | ldHlDecA
  /-- `LD A,(HL+)` (rule R267). -/
  | ldAHlInc
  /-- `LD (HL+),A` (rule R268). -/
  | ldHlIncA
  /-- `LD rr,nn` (rule R280). -/
  | ldRrNn (rr : Reg16) (nn : Word)
  /-- `LD (nn),SP` (rule R281). -/
  | ldNnSp (nn : Word)
  /-- `LD SP,HL` (rule R282). -/
  | ldSpHl
  /-- `LD HL,SP+e` (rule R283). -/
  | ldHlSpE (e : Byte)
  /-- `PUSH rr` (rule R284). -/
  | pushRr (rr : PairReg)
  /-- `PUSH AF` (rule R285). -/
  | pushAf
  /-- `POP rr` (rule R286). -/
  | popRr (rr : PairReg)
  /-- `POP AF` (rule R287). -/
  | popAf
  /-- `ADD A,r` (rule R310). -/
  | addR (r : Reg8)
  /-- `ADD A,(HL)` (rule R311). -/
  | addHl
  /-- `ADD A,n` (rule R312). -/
  | addN (n : Byte)
  /-- `ADC A,r` (rule R313). -/
  | adcR (r : Reg8)
  /-- `ADC A,(HL)` (rule R314). -/
  | adcHl
  /-- `ADC A,n` (rule R315). -/
  | adcN (n : Byte)
  /-- `SUB r` (rule R316). -/
  | subR (r : Reg8)
  /-- `SUB (HL)` (rule R317). -/
  | subHl
  /-- `SUB n` (rule R318). -/
  | subN (n : Byte)
  /-- `SBC A,r` (rule R319). -/
  | sbcR (r : Reg8)
  /-- `SBC A,(HL)` (rule R320). -/
  | sbcHl
  /-- `SBC A,n` (rule R321). -/
  | sbcN (n : Byte)
  /-- `AND r` (rule R322). -/
  | andR (r : Reg8)
  /-- `AND (HL)` (rule R323). -/
  | andHl
  /-- `AND n` (rule R324). -/
  | andN (n : Byte)
  /-- `XOR r` (rule R325). -/
  | xorR (r : Reg8)
  /-- `XOR (HL)` (rule R326). -/
  | xorHl
  /-- `XOR n` (rule R327). -/
  | xorN (n : Byte)
  /-- `OR r` (rule R328). -/
  | orR (r : Reg8)
  /-- `OR (HL)` (rule R329). -/
  | orHl
  /-- `OR n` (rule R330). -/
  | orN (n : Byte)
  /-- `CP r` (rule R331). -/
  | cpR (r : Reg8)
  /-- `CP (HL)` (rule R332). -/
  | cpHl
  /-- `CP n` (rule R333). -/
  | cpN (n : Byte)
  /-- `INC r` (rule R334). -/
  | incR (r : Reg8)
  /-- `INC (HL)` (rule R335). -/
  | incHl
  /-- `DEC r` (rule R336). -/
  | decR (r : Reg8)
  /-- `DEC (HL)` (rule R337). -/
  | decHl
  /-- `DAA` (rule R338). -/
  | daa
  /-- `CPL` (rule R339). -/
  | cpl
  /-- `SCF` (rule R340). -/
  | scf
  /-- `CCF` (rule R341). -/
  | ccf
  /-- `ADD HL,rr` (rule R360). -/
  | addHlRr (rr : Reg16)
  /-- `INC rr` (rule R361). -/
  | incRr (rr : Reg16)
  /-- `DEC rr` (rule R362). -/
  | decRr (rr : Reg16)
  /-- `ADD SP,e` (rule R363). -/
  | addSpE (e : Byte)
  /-- `RLCA` (rule R381). -/
  | rlca
  /-- `RRCA` (rule R382). -/
  | rrca
  /-- `RLA` (rule R383). -/
  | rla
  /-- `RRA` (rule R384). -/
  | rra
  /-- `RLC r` (rule R385). -/
  | rlcR (r : Reg8)
  /-- `RLC (HL)` (rule R386). -/
  | rlcHl
  /-- `RRC r` (rule R387). -/
  | rrcR (r : Reg8)
  /-- `RRC (HL)` (rule R388). -/
  | rrcHl
  /-- `RL r` (rule R389). -/
  | rlR (r : Reg8)
  /-- `RL (HL)` (rule R390). -/
  | rlHl
  /-- `RR r` (rule R391). -/
  | rrR (r : Reg8)
  /-- `RR (HL)` (rule R392). -/
  | rrHl
  /-- `SLA r` (rule R393). -/
  | slaR (r : Reg8)
  /-- `SLA (HL)` (rule R394). -/
  | slaHl
  /-- `SRA r` (rule R395). -/
  | sraR (r : Reg8)
  /-- `SRA (HL)` (rule R396). -/
  | sraHl
  /-- `SWAP r` (rule R397). -/
  | swapR (r : Reg8)
  /-- `SWAP (HL)` (rule R398). -/
  | swapHl
  /-- `SRL r` (rule R399). -/
  | srlR (r : Reg8)
  /-- `SRL (HL)` (rule R400). -/
  | srlHl
  /-- `BIT b,r` (rule R401). -/
  | bitR (b : BitNo) (r : Reg8)
  /-- `BIT b,(HL)` (rule R402). -/
  | bitHl (b : BitNo)
  /-- `RES b,r` (rule R403). -/
  | resR (b : BitNo) (r : Reg8)
  /-- `RES b,(HL)` (rule R404). -/
  | resHl (b : BitNo)
  /-- `SET b,r` (rule R405). -/
  | setR (b : BitNo) (r : Reg8)
  /-- `SET b,(HL)` (rule R406). -/
  | setHl (b : BitNo)
  /-- `JP nn` (rule R430). -/
  | jpNn (nn : Word)
  /-- `JP cc,nn` (rule R431). -/
  | jpCcNn (cc : Cond) (nn : Word)
  /-- `JP HL` (rule R432). -/
  | jpHl
  /-- `JR e` (rule R433). -/
  | jrE (e : Byte)
  /-- `JR cc,e` (rule R434). -/
  | jrCcE (cc : Cond) (e : Byte)
  /-- `CALL nn` (rule R435). -/
  | callNn (nn : Word)
  /-- `CALL cc,nn` (rule R436). -/
  | callCcNn (cc : Cond) (nn : Word)
  /-- `RET` (rule R437). -/
  | ret
  /-- `RET cc` (rule R438). -/
  | retCc (cc : Cond)
  /-- `RETI` (rule R439). -/
  | reti
  /-- `RST t` (rule R441). -/
  | rst (t : RstNo)
  /-- `NOP` (rule R460). -/
  | nop
  /-- `HALT` (rule R461). -/
  | halt
  /-- `STOP`, with its padding byte (rule R462). -/
  | stop (pad : Byte)
  /-- `DI` (rule R463). -/
  | di
  /-- `EI` (rule R464). -/
  | ei
  /-- `PREFIX CB`: the byte 0xCB as a first byte, with the second byte not yet read as an operation (rule R465). -/
  | prefixCb (op2 : Byte)
  /-- the undefined first byte 0xD3 (rule R466). -/
  | illegalD3
  /-- the undefined first byte 0xDB (rule R466). -/
  | illegalDB
  /-- the undefined first byte 0xDD (rule R466). -/
  | illegalDD
  /-- the undefined first byte 0xE3 (rule R466). -/
  | illegalE3
  /-- the undefined first byte 0xE4 (rule R466). -/
  | illegalE4
  /-- the undefined first byte 0xEB (rule R466). -/
  | illegalEB
  /-- the undefined first byte 0xEC (rule R466). -/
  | illegalEC
  /-- the undefined first byte 0xED (rule R466). -/
  | illegalED
  /-- the undefined first byte 0xF4 (rule R466). -/
  | illegalF4
  /-- the undefined first byte 0xFC (rule R466). -/
  | illegalFC
  /-- the undefined first byte 0xFD (rule R466). -/
  | illegalFD
  deriving DecidableEq, Repr

end Sys2Proof
end

