-- ==== Sys2Proof/WellFormed.lean ====
section
/-! DEFINITION. Which terms of `Instr` are instructions the decoder can yield. Operand types already exclude every
register, condition, bit and target number that the encoding has no code for, so one check is left: `prefixCb` is the
prefix byte with its second byte still unread. The prefix and its second byte are ONE instruction (`30_encoding.md`
rule R208), and all 256 second bytes are defined (rule R213), so the words of a `prefixCb` term are always the words of
the instruction that `op2` selects, and only that instruction is well formed. -/

namespace Sys2Proof

/-- The term is the reading of its own words: every constructor but `prefixCb` (rules R208, R465). -/
def Instr.wellFormed : Instr → Bool
  | .ldRR _ _ => true
  | .ldRN _ _ => true
  | .ldRHl _ => true
  | .ldHlR _ => true
  | .ldHlN _ => true
  | .ldABc => true
  | .ldADe => true
  | .ldBcA => true
  | .ldDeA => true
  | .ldANn _ => true
  | .ldNnA _ => true
  | .ldhAC => true
  | .ldhCA => true
  | .ldhAN _ => true
  | .ldhNA _ => true
  | .ldAHlDec => true
  | .ldHlDecA => true
  | .ldAHlInc => true
  | .ldHlIncA => true
  | .ldRrNn _ _ => true
  | .ldNnSp _ => true
  | .ldSpHl => true
  | .ldHlSpE _ => true
  | .pushRr _ => true
  | .pushAf => true
  | .popRr _ => true
  | .popAf => true
  | .addR _ => true
  | .addHl => true
  | .addN _ => true
  | .adcR _ => true
  | .adcHl => true
  | .adcN _ => true
  | .subR _ => true
  | .subHl => true
  | .subN _ => true
  | .sbcR _ => true
  | .sbcHl => true
  | .sbcN _ => true
  | .andR _ => true
  | .andHl => true
  | .andN _ => true
  | .xorR _ => true
  | .xorHl => true
  | .xorN _ => true
  | .orR _ => true
  | .orHl => true
  | .orN _ => true
  | .cpR _ => true
  | .cpHl => true
  | .cpN _ => true
  | .incR _ => true
  | .incHl => true
  | .decR _ => true
  | .decHl => true
  | .daa => true
  | .cpl => true
  | .scf => true
  | .ccf => true
  | .addHlRr _ => true
  | .incRr _ => true
  | .decRr _ => true
  | .addSpE _ => true
  | .rlca => true
  | .rrca => true
  | .rla => true
  | .rra => true
  | .rlcR _ => true
  | .rlcHl => true
  | .rrcR _ => true
  | .rrcHl => true
  | .rlR _ => true
  | .rlHl => true
  | .rrR _ => true
  | .rrHl => true
  | .slaR _ => true
  | .slaHl => true
  | .sraR _ => true
  | .sraHl => true
  | .swapR _ => true
  | .swapHl => true
  | .srlR _ => true
  | .srlHl => true
  | .bitR _ _ => true
  | .bitHl _ => true
  | .resR _ _ => true
  | .resHl _ => true
  | .setR _ _ => true
  | .setHl _ => true
  | .jpNn _ => true
  | .jpCcNn _ _ => true
  | .jpHl => true
  | .jrE _ => true
  | .jrCcE _ _ => true
  | .callNn _ => true
  | .callCcNn _ _ => true
  | .ret => true
  | .retCc _ => true
  | .reti => true
  | .rst _ => true
  | .nop => true
  | .halt => true
  | .stop _ => true
  | .di => true
  | .ei => true
  | .prefixCb _ => false
  | .illegalD3 => true
  | .illegalDB => true
  | .illegalDD => true
  | .illegalE3 => true
  | .illegalE4 => true
  | .illegalEB => true
  | .illegalEC => true
  | .illegalED => true
  | .illegalF4 => true
  | .illegalFC => true
  | .illegalFD => true

end Sys2Proof
end

