-- ==== Sys2Proof/Decode.lean ====
section
/-! DEFINITION. The decoder, total on any bytes, and the encoder (`30_encoding.md`). `decodeBytes` reads one
instruction from the three bytes at PC by the quadrant tables of rule R211, following the field names of rule R202;
`decode` is the same reader on a list of bytes, which it refuses by name when it is too short. `encode` is written from
the bit patterns of the same tables. Neither depends on the other. -/

namespace Sys2Proof

/-! ## Byte order and bit fields -/

/-- `hi:lo` (rule R13): the first byte is bits 15..8. -/
def wordOf (hi lo : Byte) : Word := hi ++ lo

/-- Bits 15..8 of a word. -/
def hiByte (w : Word) : Byte := w.extractLsb' 8 8

/-- Bits 7..0 of a word. -/
def loByte (w : Word) : Byte := w.extractLsb' 0 8

/-- Field `x`, bits 7..6 (rule R202). -/
def fieldX (op : Byte) : BitVec 2 := op.extractLsb' 6 2

/-- Field `y`, bits 5..3 (rule R202). -/
def fieldY (op : Byte) : BitVec 3 := op.extractLsb' 3 3

/-- Field `z`, bits 2..0 (rule R202). -/
def fieldZ (op : Byte) : BitVec 3 := op.extractLsb' 0 3

/-- Field `p`, bits 5..4 (rule R202). -/
def fieldP (op : Byte) : BitVec 2 := op.extractLsb' 4 2

/-- Field `q`, bit 3 (rule R202). -/
def fieldQ (op : Byte) : Bool := op.getLsbD 3

/-! ## Operand codes -/

/-- The code of a register (rule R203). -/
def Reg8.code : Reg8 → BitVec 3
  | .b => 0 | .c => 1 | .d => 2 | .e => 3 | .h => 4 | .l => 5 | .a => 7

/-- The register of an operand code; none for code 6, the memory byte at HL (rule R203). -/
def reg8? (code : BitVec 3) : Option Reg8 :=
  match code.toNat with
  | 0 => some .b
  | 1 => some .c
  | 2 => some .d
  | 3 => some .e
  | 4 => some .h
  | 5 => some .l
  | 6 => none
  | _ => some .a

/-- The code of a 16-bit operand (rule R204). -/
def Reg16.code : Reg16 → BitVec 2
  | .bc => 0 | .de => 1 | .hl => 2 | .sp => 3

/-- The 16-bit operand of a code (rule R204). -/
def reg16Of (code : BitVec 2) : Reg16 :=
  match code.toNat with
  | 0 => .bc
  | 1 => .de
  | 2 => .hl
  | _ => .sp

/-- The code of a pushed or popped pair (rule R205). -/
def PairReg.code : PairReg → BitVec 2
  | .bc => 0 | .de => 1 | .hl => 2

/-- The pair of a code; none for code 3, AF (rule R205). -/
def pairReg? (code : BitVec 2) : Option PairReg :=
  match code.toNat with
  | 0 => some .bc
  | 1 => some .de
  | 2 => some .hl
  | _ => none

/-- The code of a condition (rule R206). -/
def Cond.code : Cond → BitVec 2
  | .nz => 0 | .z => 1 | .nc => 2 | .c => 3

/-- The condition of a code (rule R206). -/
def condOf (code : BitVec 2) : Cond :=
  match code.toNat with
  | 0 => .nz
  | 1 => .z
  | 2 => .nc
  | _ => .c

/-! ## The decoder -/

/-- The condition in `y[1:0]` (rule R206). -/
def condOfY (y : BitVec 3) : Cond := condOf (y.extractLsb' 0 2)

/-- Quadrant `x` = 0, first bytes 00 to 3F (rule R211). -/
def decodeQuadrant0 (op b1 b2 : Byte) : Instr :=
  match (fieldZ op).toNat with
  | 0 =>
    match (fieldY op).toNat with
    | 0 => .nop
    | 1 => .ldNnSp (wordOf b2 b1)
    | 2 => .stop b1
    | 3 => .jrE b1
    | _ => .jrCcE (condOfY (fieldY op)) b1
  | 1 => if fieldQ op then .addHlRr (reg16Of (fieldP op)) else .ldRrNn (reg16Of (fieldP op)) (wordOf b2 b1)
  | 2 =>
    match (fieldY op).toNat with
    | 0 => .ldBcA
    | 1 => .ldABc
    | 2 => .ldDeA
    | 3 => .ldADe
    | 4 => .ldHlIncA
    | 5 => .ldAHlInc
    | 6 => .ldHlDecA
    | _ => .ldAHlDec
  | 3 => if fieldQ op then .decRr (reg16Of (fieldP op)) else .incRr (reg16Of (fieldP op))
  | 4 =>
    match reg8? (fieldY op) with
    | some r => .incR r
    | none => .incHl
  | 5 =>
    match reg8? (fieldY op) with
    | some r => .decR r
    | none => .decHl
  | 6 =>
    match reg8? (fieldY op) with
    | some r => .ldRN r b1
    | none => .ldHlN b1
  | _ =>
    match (fieldY op).toNat with
    | 0 => .rlca
    | 1 => .rrca
    | 2 => .rla
    | 3 => .rra
    | 4 => .daa
    | 5 => .cpl
    | 6 => .scf
    | _ => .ccf

/-- Quadrant `x` = 1, first bytes 40 to 7F (rule R211). -/
def decodeQuadrant1 (op : Byte) : Instr :=
  match reg8? (fieldY op), reg8? (fieldZ op) with
  | some dst, some src => .ldRR dst src
  | some dst, none => .ldRHl dst
  | none, some src => .ldHlR src
  | none, none => .halt

/-- Quadrant `x` = 2, first bytes 80 to BF: the ALU operation `y` (rule R207) on the operand `z`. -/
def decodeQuadrant2 (op : Byte) : Instr :=
  match reg8? (fieldZ op) with
  | some r =>
    match (fieldY op).toNat with
    | 0 => .addR r
    | 1 => .adcR r
    | 2 => .subR r
    | 3 => .sbcR r
    | 4 => .andR r
    | 5 => .xorR r
    | 6 => .orR r
    | _ => .cpR r
  | none =>
    match (fieldY op).toNat with
    | 0 => .addHl
    | 1 => .adcHl
    | 2 => .subHl
    | 3 => .sbcHl
    | 4 => .andHl
    | 5 => .xorHl
    | 6 => .orHl
    | _ => .cpHl

/-- The second byte after 0xCB (rule R208). -/
def decodeCb (op2 : Byte) : Instr :=
  match reg8? (fieldZ op2) with
  | some r =>
    match (fieldX op2).toNat with
    | 0 =>
      match (fieldY op2).toNat with
      | 0 => .rlcR r
      | 1 => .rrcR r
      | 2 => .rlR r
      | 3 => .rrR r
      | 4 => .slaR r
      | 5 => .sraR r
      | 6 => .swapR r
      | _ => .srlR r
    | 1 => .bitR (fieldY op2) r
    | 2 => .resR (fieldY op2) r
    | _ => .setR (fieldY op2) r
  | none =>
    match (fieldX op2).toNat with
    | 0 =>
      match (fieldY op2).toNat with
      | 0 => .rlcHl
      | 1 => .rrcHl
      | 2 => .rlHl
      | 3 => .rrHl
      | 4 => .slaHl
      | 5 => .sraHl
      | 6 => .swapHl
      | _ => .srlHl
    | 1 => .bitHl (fieldY op2)
    | 2 => .resHl (fieldY op2)
    | _ => .setHl (fieldY op2)

/-- Quadrant `x` = 3, first bytes C0 to FF, the eleven undefined ones among them (rules R211, R215). -/
def decodeQuadrant3 (op b1 b2 : Byte) : Instr :=
  match (fieldZ op).toNat with
  | 0 =>
    match (fieldY op).toNat with
    | 4 => .ldhNA b1
    | 5 => .addSpE b1
    | 6 => .ldhAN b1
    | 7 => .ldHlSpE b1
    | _ => .retCc (condOfY (fieldY op))
  | 1 =>
    if fieldQ op then
      match (fieldP op).toNat with
      | 0 => .ret
      | 1 => .reti
      | 2 => .jpHl
      | _ => .ldSpHl
    else
      match pairReg? (fieldP op) with
      | some rr => .popRr rr
      | none => .popAf
  | 2 =>
    match (fieldY op).toNat with
    | 4 => .ldhCA
    | 5 => .ldNnA (wordOf b2 b1)
    | 6 => .ldhAC
    | 7 => .ldANn (wordOf b2 b1)
    | _ => .jpCcNn (condOfY (fieldY op)) (wordOf b2 b1)
  | 3 =>
    match (fieldY op).toNat with
    | 0 => .jpNn (wordOf b2 b1)
    | 1 => decodeCb b1
    | 2 => .illegalD3
    | 3 => .illegalDB
    | 4 => .illegalE3
    | 5 => .illegalEB
    | 6 => .di
    | _ => .ei
  | 4 =>
    match (fieldY op).toNat with
    | 4 => .illegalE4
    | 5 => .illegalEC
    | 6 => .illegalF4
    | 7 => .illegalFC
    | _ => .callCcNn (condOfY (fieldY op)) (wordOf b2 b1)
  | 5 =>
    if fieldQ op then
      match (fieldP op).toNat with
      | 0 => .callNn (wordOf b2 b1)
      | 1 => .illegalDD
      | 2 => .illegalED
      | _ => .illegalFD
    else
      match pairReg? (fieldP op) with
      | some rr => .pushRr rr
      | none => .pushAf
  | 6 =>
    match (fieldY op).toNat with
    | 0 => .addN b1
    | 1 => .adcN b1
    | 2 => .subN b1
    | 3 => .sbcN b1
    | 4 => .andN b1
    | 5 => .xorN b1
    | 6 => .orN b1
    | _ => .cpN b1
  | _ => .rst (fieldY op)

/-- The instruction that starts with the byte `op`, followed in memory by `b1` and `b2` (rule R211). The bytes past the
instruction's length are not looked at. -/
def decodeBytes (op b1 b2 : Byte) : Instr :=
  match (fieldX op).toNat with
  | 0 => decodeQuadrant0 op b1 b2
  | 1 => decodeQuadrant1 op
  | 2 => decodeQuadrant2 op
  | _ => decodeQuadrant3 op b1 b2

/-- The length in bytes (rule R214). -/
def Instr.length : Instr → Nat
  | .ldRR _ _ => 1
  | .ldRN _ _ => 2
  | .ldRHl _ => 1
  | .ldHlR _ => 1
  | .ldHlN _ => 2
  | .ldABc => 1
  | .ldADe => 1
  | .ldBcA => 1
  | .ldDeA => 1
  | .ldANn _ => 3
  | .ldNnA _ => 3
  | .ldhAC => 1
  | .ldhCA => 1
  | .ldhAN _ => 2
  | .ldhNA _ => 2
  | .ldAHlDec => 1
  | .ldHlDecA => 1
  | .ldAHlInc => 1
  | .ldHlIncA => 1
  | .ldRrNn _ _ => 3
  | .ldNnSp _ => 3
  | .ldSpHl => 1
  | .ldHlSpE _ => 2
  | .pushRr _ => 1
  | .pushAf => 1
  | .popRr _ => 1
  | .popAf => 1
  | .addR _ => 1
  | .addHl => 1
  | .addN _ => 2
  | .adcR _ => 1
  | .adcHl => 1
  | .adcN _ => 2
  | .subR _ => 1
  | .subHl => 1
  | .subN _ => 2
  | .sbcR _ => 1
  | .sbcHl => 1
  | .sbcN _ => 2
  | .andR _ => 1
  | .andHl => 1
  | .andN _ => 2
  | .xorR _ => 1
  | .xorHl => 1
  | .xorN _ => 2
  | .orR _ => 1
  | .orHl => 1
  | .orN _ => 2
  | .cpR _ => 1
  | .cpHl => 1
  | .cpN _ => 2
  | .incR _ => 1
  | .incHl => 1
  | .decR _ => 1
  | .decHl => 1
  | .daa => 1
  | .cpl => 1
  | .scf => 1
  | .ccf => 1
  | .addHlRr _ => 1
  | .incRr _ => 1
  | .decRr _ => 1
  | .addSpE _ => 2
  | .rlca => 1
  | .rrca => 1
  | .rla => 1
  | .rra => 1
  | .rlcR _ => 2
  | .rlcHl => 2
  | .rrcR _ => 2
  | .rrcHl => 2
  | .rlR _ => 2
  | .rlHl => 2
  | .rrR _ => 2
  | .rrHl => 2
  | .slaR _ => 2
  | .slaHl => 2
  | .sraR _ => 2
  | .sraHl => 2
  | .swapR _ => 2
  | .swapHl => 2
  | .srlR _ => 2
  | .srlHl => 2
  | .bitR _ _ => 2
  | .bitHl _ => 2
  | .resR _ _ => 2
  | .resHl _ => 2
  | .setR _ _ => 2
  | .setHl _ => 2
  | .jpNn _ => 3
  | .jpCcNn _ _ => 3
  | .jpHl => 1
  | .jrE _ => 2
  | .jrCcE _ _ => 2
  | .callNn _ => 3
  | .callCcNn _ _ => 3
  | .ret => 1
  | .retCc _ => 1
  | .reti => 1
  | .rst _ => 1
  | .nop => 1
  | .halt => 1
  | .stop _ => 2
  | .di => 1
  | .ei => 1
  | .prefixCb _ => 2
  | .illegalD3 => 1
  | .illegalDB => 1
  | .illegalDD => 1
  | .illegalE3 => 1
  | .illegalE4 => 1
  | .illegalEB => 1
  | .illegalEC => 1
  | .illegalED => 1
  | .illegalF4 => 1
  | .illegalFC => 1
  | .illegalFD => 1

/-- Why a list of bytes is no instruction. The eleven undefined first bytes are not among the reasons: they decode to
the rows the table gives them (rule R466), whose meaning is the fatal condition. -/
inductive DecodeError where
  /-- The bytes end before the length that the first byte sets (rule R214). -/
  | truncated
  deriving DecidableEq, Repr

/-- The first instruction of a list of bytes, and the bytes after it. -/
def decode : List Byte → Except DecodeError (Instr × List Byte)
  | [] => .error .truncated
  | op :: rest =>
    let i := decodeBytes op (rest.getD 0 0) (rest.getD 1 0)
    if i.length ≤ rest.length + 1 then .ok (i, rest.drop (i.length - 1)) else .error .truncated

/-- The instruction the decoder reads from the word `w` of an opcode-table row: byte k of the instruction is bits
8k+7..8k of `w`; bits of `nbits` and above are 0, up to the longest instruction's three bytes (rule R200). -/
def decodeTableWord (nbits w : Nat) : Option Instr :=
  let v := w % 2 ^ nbits
  match decode [BitVec.ofNat 8 v, BitVec.ofNat 8 (v / 256), BitVec.ofNat 8 (v / 65536)] with
  | .ok (i, _) => some i
  | .error _ => none

/-! ## The encoder -/

/-- `op, nn[7:0], nn[15:8]` (rule R201, format OP_NN). -/
def encodeNn (op : Byte) (nn : Word) : List Byte := [op, loByte nn, hiByte nn]

/-- The second byte of the CB format: `x`, `y`, `z` (rule R208). -/
def encodeCb (x : BitVec 2) (y z : BitVec 3) : List Byte := [0xCB#8, (x ++ y ++ z : Byte)]

/-- The bytes of an instruction in memory order: the bit patterns of rules R208, R211 and R212. -/
def encode : Instr → List Byte
  | .ldRR dst src => [(0b01#2 ++ dst.code ++ src.code : Byte)]
  | .ldRN dst n => [(0b00#2 ++ dst.code ++ 0b110#3 : Byte), n]
  | .ldRHl dst => [(0b01#2 ++ dst.code ++ 0b110#3 : Byte)]
  | .ldHlR r => [(0b01110#5 ++ r.code : Byte)]
  | .ldHlN n => [0b00110110#8, n]
  | .ldABc => [0b00001010#8]
  | .ldADe => [0b00011010#8]
  | .ldBcA => [0b00000010#8]
  | .ldDeA => [0b00010010#8]
  | .ldANn nn => encodeNn 0b11111010#8 nn
  | .ldNnA nn => encodeNn 0b11101010#8 nn
  | .ldhAC => [0b11110010#8]
  | .ldhCA => [0b11100010#8]
  | .ldhAN n => [0b11110000#8, n]
  | .ldhNA n => [0b11100000#8, n]
  | .ldAHlDec => [0b00111010#8]
  | .ldHlDecA => [0b00110010#8]
  | .ldAHlInc => [0b00101010#8]
  | .ldHlIncA => [0b00100010#8]
  | .ldRrNn rr nn => encodeNn (0b00#2 ++ rr.code ++ 0b0001#4 : Byte) nn
  | .ldNnSp nn => encodeNn 0b00001000#8 nn
  | .ldSpHl => [0b11111001#8]
  | .ldHlSpE e => [0b11111000#8, e]
  | .pushRr rr => [(0b11#2 ++ rr.code ++ 0b0101#4 : Byte)]
  | .pushAf => [0b11110101#8]
  | .popRr rr => [(0b11#2 ++ rr.code ++ 0b0001#4 : Byte)]
  | .popAf => [0b11110001#8]
  | .addR r => [(0b10000#5 ++ r.code : Byte)]
  | .addHl => [0b10000110#8]
  | .addN n => [0b11000110#8, n]
  | .adcR r => [(0b10001#5 ++ r.code : Byte)]
  | .adcHl => [0b10001110#8]
  | .adcN n => [0b11001110#8, n]
  | .subR r => [(0b10010#5 ++ r.code : Byte)]
  | .subHl => [0b10010110#8]
  | .subN n => [0b11010110#8, n]
  | .sbcR r => [(0b10011#5 ++ r.code : Byte)]
  | .sbcHl => [0b10011110#8]
  | .sbcN n => [0b11011110#8, n]
  | .andR r => [(0b10100#5 ++ r.code : Byte)]
  | .andHl => [0b10100110#8]
  | .andN n => [0b11100110#8, n]
  | .xorR r => [(0b10101#5 ++ r.code : Byte)]
  | .xorHl => [0b10101110#8]
  | .xorN n => [0b11101110#8, n]
  | .orR r => [(0b10110#5 ++ r.code : Byte)]
  | .orHl => [0b10110110#8]
  | .orN n => [0b11110110#8, n]
  | .cpR r => [(0b10111#5 ++ r.code : Byte)]
  | .cpHl => [0b10111110#8]
  | .cpN n => [0b11111110#8, n]
  | .incR r => [(0b00#2 ++ r.code ++ 0b100#3 : Byte)]
  | .incHl => [0b00110100#8]
  | .decR r => [(0b00#2 ++ r.code ++ 0b101#3 : Byte)]
  | .decHl => [0b00110101#8]
  | .daa => [0b00100111#8]
  | .cpl => [0b00101111#8]
  | .scf => [0b00110111#8]
  | .ccf => [0b00111111#8]
  | .addHlRr rr => [(0b00#2 ++ rr.code ++ 0b1001#4 : Byte)]
  | .incRr rr => [(0b00#2 ++ rr.code ++ 0b0011#4 : Byte)]
  | .decRr rr => [(0b00#2 ++ rr.code ++ 0b1011#4 : Byte)]
  | .addSpE e => [0b11101000#8, e]
  | .rlca => [0b00000111#8]
  | .rrca => [0b00001111#8]
  | .rla => [0b00010111#8]
  | .rra => [0b00011111#8]
  | .rlcR r => encodeCb 0b00#2 0b000#3 r.code
  | .rlcHl => encodeCb 0b00#2 0b000#3 0b110#3
  | .rrcR r => encodeCb 0b00#2 0b001#3 r.code
  | .rrcHl => encodeCb 0b00#2 0b001#3 0b110#3
  | .rlR r => encodeCb 0b00#2 0b010#3 r.code
  | .rlHl => encodeCb 0b00#2 0b010#3 0b110#3
  | .rrR r => encodeCb 0b00#2 0b011#3 r.code
  | .rrHl => encodeCb 0b00#2 0b011#3 0b110#3
  | .slaR r => encodeCb 0b00#2 0b100#3 r.code
  | .slaHl => encodeCb 0b00#2 0b100#3 0b110#3
  | .sraR r => encodeCb 0b00#2 0b101#3 r.code
  | .sraHl => encodeCb 0b00#2 0b101#3 0b110#3
  | .swapR r => encodeCb 0b00#2 0b110#3 r.code
  | .swapHl => encodeCb 0b00#2 0b110#3 0b110#3
  | .srlR r => encodeCb 0b00#2 0b111#3 r.code
  | .srlHl => encodeCb 0b00#2 0b111#3 0b110#3
  | .bitR b r => encodeCb 0b01#2 b r.code
  | .bitHl b => encodeCb 0b01#2 b 0b110#3
  | .resR b r => encodeCb 0b10#2 b r.code
  | .resHl b => encodeCb 0b10#2 b 0b110#3
  | .setR b r => encodeCb 0b11#2 b r.code
  | .setHl b => encodeCb 0b11#2 b 0b110#3
  | .jpNn nn => encodeNn 0b11000011#8 nn
  | .jpCcNn cc nn => encodeNn (0b110#3 ++ cc.code ++ 0b010#3 : Byte) nn
  | .jpHl => [0b11101001#8]
  | .jrE e => [0b00011000#8, e]
  | .jrCcE cc e => [(0b001#3 ++ cc.code ++ 0b000#3 : Byte), e]
  | .callNn nn => encodeNn 0b11001101#8 nn
  | .callCcNn cc nn => encodeNn (0b110#3 ++ cc.code ++ 0b100#3 : Byte) nn
  | .ret => [0b11001001#8]
  | .retCc cc => [(0b110#3 ++ cc.code ++ 0b000#3 : Byte)]
  | .reti => [0b11011001#8]
  | .rst t => [(0b11#2 ++ t ++ 0b111#3 : Byte)]
  | .nop => [0b00000000#8]
  | .halt => [0b01110110#8]
  | .stop pad => [0b00010000#8, pad]
  | .di => [0b11110011#8]
  | .ei => [0b11111011#8]
  | .prefixCb op2 => [0xCB#8, op2]
  | .illegalD3 => [0b11010011#8]
  | .illegalDB => [0b11011011#8]
  | .illegalDD => [0b11011101#8]
  | .illegalE3 => [0b11100011#8]
  | .illegalE4 => [0b11100100#8]
  | .illegalEB => [0b11101011#8]
  | .illegalEC => [0b11101100#8]
  | .illegalED => [0b11101101#8]
  | .illegalF4 => [0b11110100#8]
  | .illegalFC => [0b11111100#8]
  | .illegalFD => [0b11111101#8]

end Sys2Proof
end

