-- ==== Sys2Proof/Config.lean ====
section
/-! DEFINITION. The parameters that the spec leaves open (`00_scope.md` rule R9) and their defaults. They are a
constant field of the machine's state, so that a statement about every state holds for every value of them; no step
and no host call changes them (`10_state.md` rule R102). The constants that rule R10 fixes are in
`Machine/Constants.lean`. -/

namespace Sys2Proof

/-- One RGBA quadruple, in the order of `display_buffer` (rule R648: red, green, blue, alpha). -/
structure Rgba where
  red   : Byte
  green : Byte
  blue  : Byte
  alpha : Byte
  deriving DecidableEq, Repr

/-- The named arguments of the step relation (rules R9, R102), less `ROM`, which is the state's cartridge. -/
structure Params where
  /-- `HALT_TICK`: cycles a halted step adds when nothing is pending; at least 1 (decision D10). -/
  haltTick    : Nat
  /-- `ITER_CEILING`: bound on the iterations of one `run_until_redraw`; positive (decision D36). -/
  iterCeiling : Nat
  /-- `PALETTE_RGBA`: one quadruple per shade (decision D26). -/
  paletteRgba : Vector Rgba 4
  /-- `RESET_LCDC` (decision D33). -/
  resetLcdc   : Byte
  /-- `RESET_BGP` (decision D33). -/
  resetBgp    : Byte
  /-- `RESET_OBP0` (decision D33). -/
  resetObp0   : Byte
  /-- `RESET_OBP1` (decision D33). -/
  resetObp1   : Byte
  deriving DecidableEq, Repr

/-- The defaults of rule R9. -/
def Params.default : Params where
  haltTick    := 1
  iterCeiling := 280896
  paletteRgba := #v[⟨0xFF, 0xFF, 0xFF, 0xFF⟩, ⟨0xAA, 0xAA, 0xAA, 0xFF⟩, ⟨0x55, 0x55, 0x55, 0xFF⟩, ⟨0x00, 0x00, 0x00, 0xFF⟩]
  resetLcdc   := 0x91
  resetBgp    := 0xFC
  resetObp0   := 0xFF
  resetObp1   := 0xFF

end Sys2Proof
end

