-- ==== Sys2Proof/Machine/State.lean ====
section
/-! DEFINITION. The state of the block, as `10_state.md` rule R50 lists it, and its value after `reset()` (rule R104).
Registers that form one unit in the spec form one structure here. Everything is plain data. -/

namespace Sys2Proof.Machine

/-- Bytes by index, in one canonical form: indices strictly rising, no entry equal to 0x00, which is what an unlisted
index reads as (every on-chip and cartridge memory is zero after reset, rule R104). The operations are in
`Machine/Cells.lean`. -/
abbrev Memory := List Host.Cell

/-- The CPU register file (rules R51, R55, R56). F is one of the eight 8-bit registers; AF, BC, DE and HL are views
(rule R52), not storage. -/
structure Regs where
  a  : Byte
  f  : Byte
  b  : Byte
  c  : Byte
  d  : Byte
  e  : Byte
  h  : Byte
  l  : Byte
  sp : Word
  pc : Word
  deriving DecidableEq, Repr

/-- The run state (rule R62). FAULTED carries the two values of the report that every later step repeats
(rules R500, R501, and line 1 of rule R505, "as recorded"). -/
inductive RunState where
  | running
  | halted
  | stopped
  | faulted (opcode : Byte) (pc : Word)
  deriving DecidableEq, Repr

/-- What the latest step reported: its number of cycles, or the fatal condition in place of it (rules R19, R500,
R505). The driver forwards the number to the timer and the PPU (rule R645). -/
inductive StepReport where
  | cycles (n : Nat)
  | illegalInstruction (opcode : Byte) (pc : Word)
  deriving DecidableEq, Repr

/-- The timer's registers (rules R66 to R69). -/
structure Timer where
  /-- SYS, the hidden 16-bit cycle counter whose bits 15..8 are DIV. -/
  sys  : Word
  tima : Byte
  tma  : Byte
  /-- TAC, stored bits 2..0. -/
  tac  : BitVec 3
  deriving DecidableEq, Repr

/-- The LCD registers (rules R80 to R91). -/
structure Lcd where
  lcdc : Byte
  /-- STAT, stored bits 6..3: bit i of this field is STAT bit i + 3. -/
  stat : BitVec 4
  scy  : Byte
  scx  : Byte
  ly   : Byte
  lyc  : Byte
  dma  : Byte
  bgp  : Byte
  obp0 : Byte
  obp1 : Byte
  wy   : Byte
  wx   : Byte
  deriving DecidableEq, Repr

/-- The PPU modes (rule R92); their numbers are in `Machine/Ppu.lean`. -/
inductive PpuMode where
  | hBlank | vBlank | oamScan | pixelTransfer
  deriving DecidableEq, Repr

/-- A framebuffer: 144 rows of 160 shades (rule R93). -/
abbrev Frame := Vector (Vector Shade 160) 144

/-- The PPU's internal state, the two framebuffers and the redraw flag (rules R92, R93). The scanline counter is LY. -/
structure Ppu where
  mode          : PpuMode
  dot           : Nat
  /-- WLC, the window line counter. -/
  wlc           : Nat
  fb            : Frame
  front         : Frame
  redrawPending : Bool
  deriving DecidableEq, Repr

/-- The memories of rules R94 and R97, each indexed from 0. -/
structure Ram where
  vram : Memory
  wram : Memory
  oam  : Memory
  hram : Memory
  cram : Memory
  deriving DecidableEq, Repr

/-- The bank-controller variants (rule R96). -/
inductive Variant where
  | noBanking | mbc1 | mbc2 | mbc3 | mbc5
  deriving DecidableEq, Repr

/-- A cartridge image: a byte sequence of the given length, held by its non-zero bytes. -/
structure RomImage where
  length : Nat
  bytes  : Memory
  deriving DecidableEq, Repr

/-- `ROM` and the configuration derived from it at load (rule R96). -/
structure Cartridge where
  image    : RomImage
  variant  : Variant
  /-- `K`, the number of 16384-byte ROM banks. -/
  romBanks : Nat
  /-- `RAMSIZE`, in bytes. -/
  ramSize  : Nat
  /-- `KR`, the number of 8192-byte RAM banks; 0 where RAMSIZE is 0. -/
  ramBanks : Nat
  deriving DecidableEq, Repr

/-- The bank controller's registers, at the widest of the variants' widths (rule R98). -/
structure Mbc where
  ramEn : Bool
  romLo : Byte
  romHi : BitVec 1
  bank2 : BitVec 4
  bmode : Bool
  deriving DecidableEq, Repr

/-- The driver's state machine (rule R99). -/
inductive DriverState where
  | uninitialized | loaded | running
  deriving DecidableEq, Repr

/-- The whole state of the block (rule R50) and its parameters (rule R102). -/
structure State where
  params    : Params
  regs      : Regs
  /-- IME, the master interrupt enable (rule R57). -/
  ime       : Bool
  /-- The hidden bit of a pending `EI` (rule R58). -/
  eiPending : Bool
  run       : RunState
  /-- The unbounded cycle counter (rule R63). -/
  cycles    : Nat
  /-- The latest step's report (rule R19). -/
  report    : StepReport
  /-- IF, stored bits 4..0 (rule R64). -/
  ifReg     : BitVec 5
  /-- IE (rule R65). -/
  ie        : Byte
  timer     : Timer
  lcd       : Lcd
  ppu       : Ppu
  ram       : Ram
  /-- `ROM` with its configuration; none where no cartridge is loaded. -/
  cart      : Option Cartridge
  mbc       : Mbc
  driver    : DriverState
  deriving DecidableEq, Repr

/-- Why the machine stops. -/
inductive Fault where
  /-- Raised by `step` in run state FAULTED, which an undefined first byte enters (rules R466, R500): every step from
  there reports the same two values and changes nothing (rule R501). Safe: the spec gives execution past it no
  meaning. -/
  | illegalInstruction (opcode : Byte) (pc : Word)
  deriving DecidableEq, Repr

/-- Why the model gives no result. -/
inductive Refusal where
  /-- Raised by an arm of `exec` whose instruction has no meaning yet; no arm of this model does. Safe. -/
  | notModelled (mnemonic : String)
  /-- Raised by `runUntilRedraw`, `shouldRedrawDisplay` and `displayBuffer` in driver state uninitialized, which rule
  R649 tells a model to refuse. Safe. -/
  | driverUninitialized
  deriving DecidableEq, Repr

/-- Every pixel at shade 0. -/
def blankFrame : Frame := Vector.replicate 144 (Vector.replicate 160 0)

/-- The state after `reset()`, for the given parameters and current cartridge (rules R104, R641, R642). -/
def resetState (p : Params) (cart : Option Cartridge) : State where
  params    := p
  regs      :=
    { a := 0x01, f := 0xB0, b := 0x00, c := 0x13, d := 0x00, e := 0xD8, h := 0x01, l := 0x4D
      sp := 0xFFFE, pc := 0x0100 }
  ime       := false
  eiPending := false
  run       := .running
  cycles    := 0
  report    := .cycles 0
  ifReg     := 0
  ie        := 0x00
  timer     := { sys := 0, tima := 0x00, tma := 0x00, tac := 0 }
  lcd       :=
    { lcdc := p.resetLcdc, stat := 0, scy := 0x00, scx := 0x00, ly := 0, lyc := 0x00, dma := 0x00
      bgp := p.resetBgp, obp0 := p.resetObp0, obp1 := p.resetObp1, wy := 0x00, wx := 0x00 }
  ppu       :=
    { mode := .oamScan, dot := 0, wlc := 0, fb := blankFrame, front := blankFrame, redrawPending := false }
  ram       := { vram := [], wram := [], oam := [], hram := [], cram := [] }
  cart      := cart
  mbc       := { ramEn := false, romLo := 1, romHi := 0, bank2 := 0, bmode := false }
  driver    := .loaded

/-- The machine right after `reset()` with the default parameters and no cartridge ever loaded, which rule R641 names
as a legal case: the all-sentinel address space. A program comes in by `loadCartridge` (rule R640). -/
def State.reset : State := resetState Params.default none

end Sys2Proof.Machine
end

