-- ==== Sys2Proof/Machine/Cells.lean ====
section
/-! DEFINITION. The operations on a `Memory`: one read, one write that keeps the canonical form, the canonical form
itself, and a cartridge image as a byte sequence. -/

namespace Sys2Proof.Machine

/-- What an unlisted index reads as: every memory is zero after reset (`10_state.md` rule R104). -/
def unlistedByte : Byte := 0x00

/-- The byte at index `k`. -/
def Memory.read : Memory → Nat → Byte
  | [], _ => unlistedByte
  | (i, v) :: rest, k => if i = k then v else Memory.read rest k

/-- `m` without an entry for `k`. -/
def Memory.erase (m : Memory) (k : Nat) : Memory := m.filter (fun cell => cell.1 != k)

/-- `m` with an entry for `k` put before the first larger index. -/
def Memory.insert : Memory → Nat → Byte → Memory
  | [], k, v => [(k, v)]
  | (i, w) :: rest, k, v => if k < i then (k, v) :: (i, w) :: rest else (i, w) :: Memory.insert rest k v

/-- `m` with the byte `v` at index `k`; writing what an unlisted index reads as leaves no entry. -/
def Memory.write (m : Memory) (k : Nat) (v : Byte) : Memory :=
  if v = unlistedByte then Memory.erase m k else Memory.insert (Memory.erase m k) k v

/-- The canonical form: indices strictly rising, no entry equal to what an unlisted index reads as. -/
abbrev Memory.wf (m : Memory) : Prop :=
  m.Pairwise (fun x y => x.1 < y.1) ∧ ∀ cell ∈ m, cell.2 ≠ unlistedByte

/-- Every listed index lies below `n`. -/
abbrev Memory.below (m : Memory) (n : Nat) : Prop := ∀ cell ∈ m, cell.1 < n

/-- The canonical memory that holds `bytes` from index `k` on. -/
def Memory.ofBytes (k : Nat) : List Byte → Memory
  | [] => []
  | v :: rest => if v = unlistedByte then Memory.ofBytes (k + 1) rest else (k, v) :: Memory.ofBytes (k + 1) rest

/-- The image that is the byte sequence `bytes`. -/
def RomImage.ofBytes (bytes : List Byte) : RomImage := { length := bytes.length, bytes := Memory.ofBytes 0 bytes }

end Sys2Proof.Machine
end

