-- ==== Sys2Proof/Machine/Constants.lean ====
section
/-! DEFINITION. The constants that `00_scope.md` rule R10 and the PPU and cartridge rules fix. -/

namespace Sys2Proof.Machine

/-- The byte a read returns that nothing answers (rule R10). -/
def sentinel : Byte := 0xFF

/-- The cost of an interrupt dispatch (rule R10). -/
def dispatchCycles : Nat := 20

/-- Dots of a scanline (rule R10). -/
def dotsPerLine : Nat := 456

/-- The dot at which mode 2 gives way to mode 3 on a visible line (rules R10, R551). -/
def mode3Dot : Nat := 80

/-- The dot at which mode 3 gives way to mode 0 on a visible line: 80 + 172 (rules R10, R551). -/
def mode0Dot : Nat := 252

/-- The number of visible lines, and the first line of vertical blank (rule R8). -/
def visibleLines : Nat := 144

/-- Scanlines of a frame (rule R8). -/
def linesPerFrame : Nat := 154

/-- Bytes of a ROM bank (rule R96). -/
def romBankSize : Nat := 16384

/-- Bytes of a cartridge RAM bank (rule R96). -/
def ramBankSize : Nat := 8192

/-- The shortest image that holds a header (rule R155). -/
def headerEnd : Nat := 0x0150

/-- Bytes of OAM (rule R94), and of one OAM copy (rule R145). -/
def oamSize : Nat := 160

end Sys2Proof.Machine
end

