-- ==== Sys2Proof/Machine/Mbc.lean ====
section
/-! DEFINITION. The ROM/RAM bank controller: the cartridge configuration derived at load, the translation of the two
ROM windows and of the RAM window, and the control writes (`20_memory.md` rules R155 to R173). -/

namespace Sys2Proof.Machine

/-! ## The configuration at load -/

/-- The two failures of a load (rules R155, R640, `90_conflicts.md` C9). -/
inductive LoadError where
  | malformedCartridge
  | unsupportedCartridgeType
  deriving DecidableEq, Repr

/-- The variant of a header type byte (rule R155). -/
def variantOfType (t : Byte) : Option Variant :=
  if t.toNat ∈ [0x00, 0x08, 0x09] then some .noBanking
  else if t.toNat ∈ [0x01, 0x02, 0x03] then some .mbc1
  else if t.toNat ∈ [0x05, 0x06] then some .mbc2
  else if t.toNat ∈ [0x0F, 0x10, 0x11, 0x12, 0x13] then some .mbc3
  else if t.toNat ∈ [0x19, 0x1A, 0x1B, 0x1C, 0x1D, 0x1E] then some .mbc5
  else none

/-- The RAM size in bytes of a header size code (rule R155). -/
def ramSizeOfCode (code : Byte) : Option Nat :=
  match code.toNat with
  | 0 => some 0
  | 1 => some 2048
  | 2 => some 8192
  | 3 => some 32768
  | 4 => some 131072
  | 5 => some 65536
  | _ => none

/-- `RAMSIZE`: 512 half-bytes for MBC2, whatever the size code; else by the size code (rule R155). -/
def ramSizeFor (v : Variant) (code : Byte) : Option Nat :=
  match v with
  | .mbc2 => some 512
  | .noBanking | .mbc1 | .mbc3 | .mbc5 => ramSizeOfCode code

/-- `K`: the image's length in banks, rounded up (rule R96). -/
def romBanksFor (length : Nat) : Nat := (length + (romBankSize - 1)) / romBankSize

/-- `KR`: at least 1 where there is RAM (rule R96). -/
def ramBanksFor (ramSize : Nat) : Nat := if ramSize = 0 then 0 else max 1 (ramSize / ramBankSize)

/-- The cartridge of an image whose header gave the variant and the RAM size (rule R155). -/
def cartridgeOf (bytes : List Byte) (v : Variant) (ramSize : Nat) : Cartridge where
  image    := RomImage.ofBytes bytes
  variant  := v
  romBanks := romBanksFor bytes.length
  ramSize  := ramSize
  ramBanks := ramBanksFor ramSize

/-- The checks of rule R155, in its order. -/
def deriveCartridge (bytes : List Byte) : Except LoadError Cartridge :=
  if bytes.length < headerEnd then .error .malformedCartridge
  else
    match variantOfType (bytes.getD 0x0147 0) with
    | none => .error .unsupportedCartridgeType
    | some v =>
      match ramSizeFor v (bytes.getD 0x0149 0) with
      | none => .error .unsupportedCartridgeType
      | some size => .ok (cartridgeOf bytes v size)

/-! ## ROM -/

/-- `map_rom(a)` for `a ≤ 0x7FFF`: the bank before it is wrapped, and the offset in the bank (rules R159, R162, R165,
R168, R171). -/
def mapRom (v : Variant) (m : Mbc) (a : Nat) : Nat × Nat :=
  match v with
  | .noBanking => (a / romBankSize, a % romBankSize)
  | .mbc1 =>
    if a ≤ 0x3FFF then (if m.bmode then m.bank2.toNat <<< 5 else 0, a)
    else ((m.bank2.toNat <<< 5) ||| m.romLo.toNat, a - 0x4000)
  | .mbc2 => if a ≤ 0x3FFF then (0, a) else (m.romLo.toNat, a - 0x4000)
  | .mbc3 => if a ≤ 0x3FFF then (0, a) else (m.romLo.toNat, a - 0x4000)
  | .mbc5 => if a ≤ 0x3FFF then (0, a) else ((m.romHi.toNat <<< 8) ||| m.romLo.toNat, a - 0x4000)

/-- The image index of a ROM address, the bank wrapped modulo K (rules R156, R173). -/
def romIndex (c : Cartridge) (m : Mbc) (a : Nat) : Nat :=
  let (bank, off) := mapRom c.variant m a
  (bank % c.romBanks) * romBankSize + off

/-- `RomRead(a)` (rule R156). -/
def romRead (s : State) (a : Nat) : Byte :=
  match s.cart with
  | none => sentinel
  | some c =>
    if romIndex c s.mbc a < c.image.length then Memory.read c.image.bytes (romIndex c s.mbc a) else sentinel

/-! ## Cartridge RAM -/

/-- The variant's rule lets the RAM be reached: enabled, and no clock register selected (rules R159, R163, R166, R169,
R172). -/
def ramAccessible (v : Variant) (m : Mbc) : Bool :=
  match v with
  | .noBanking => true
  | .mbc1 => m.ramEn
  | .mbc2 => m.ramEn
  | .mbc3 => m.ramEn && !m.bank2.getLsbD 3
  | .mbc5 => m.ramEn

/-- The bank that `map_ram` gives before it is wrapped (rules R159, R163, R169, R172); MBC2 has one bank (rule R166). -/
def mapRamBank (v : Variant) (m : Mbc) : Nat :=
  match v with
  | .noBanking => 0
  | .mbc1 => if m.bmode then m.bank2.toNat else 0
  | .mbc2 => 0
  | .mbc3 => (m.bank2.extractLsb' 0 3).toNat
  | .mbc5 => m.bank2.toNat

/-- The index into CRAM of an address of the RAM window, or none where nothing answers (rules R157, R166). -/
def cramIndex (s : State) (a : Nat) : Option Nat :=
  match s.cart with
  | none => none
  | some c =>
    if c.ramSize = 0 || !ramAccessible c.variant s.mbc then none
    else
      match c.variant with
      | .mbc2 => some (a % 512)
      | .noBanking | .mbc1 | .mbc3 | .mbc5 =>
        some (((mapRamBank c.variant s.mbc % c.ramBanks) * ramBankSize + (a - 0xA000)) % c.ramSize)

/-- MBC2's RAM keeps four bits and reads the others as 1 (rule R166). -/
def isHalfByteRam (s : State) : Bool :=
  match s.cart with
  | none => false
  | some c => c.variant == .mbc2

/-- `CramRead(a)` (rules R157, R166). -/
def cramRead (s : State) (a : Nat) : Byte :=
  match cramIndex s a with
  | none => sentinel
  | some k => if isHalfByteRam s then 0xF0 ||| (Memory.read s.ram.cram k &&& 0x0F) else Memory.read s.ram.cram k

/-- `CramWrite(a, v)` (rules R157, R166). -/
def cramWrite (s : State) (a : Nat) (v : Byte) : State :=
  match cramIndex s a with
  | none => s
  | some k => { s with ram.cram := Memory.write s.ram.cram k (if isHalfByteRam s then v &&& 0x0F else v) }

/-! ## Control writes -/

/-- The RAM-enable test of every variant: the low nibble is 0xA (rules R161, R164, R167, R170). -/
def enablesRam (v : Byte) : Bool := v &&& 0x0F == 0x0A

/-- The zero-to-one adjustment of a bank field (rules R161, R164, R167). -/
def zeroToOne (v : Byte) : Byte := if v = 0 then 1 else v

/-- MBC1 (rule R161). -/
def mbc1Control (m : Mbc) (a : Nat) (v : Byte) : Mbc :=
  if a ≤ 0x1FFF then { m with ramEn := enablesRam v }
  else if a ≤ 0x3FFF then { m with romLo := zeroToOne (v &&& 0x1F) }
  else if a ≤ 0x5FFF then { m with bank2 := (v &&& 0x03).extractLsb' 0 4 }
  else { m with bmode := v.getLsbD 0 }

/-- MBC2 (rule R164). -/
def mbc2Control (m : Mbc) (a : Nat) (v : Byte) : Mbc :=
  if a ≤ 0x3FFF then
    if a.testBit 8 then { m with romLo := zeroToOne (v &&& 0x0F) } else { m with ramEn := enablesRam v }
  else m

/-- MBC3; the clock latch range does nothing, as the clock is absent (rule R167). -/
def mbc3Control (m : Mbc) (a : Nat) (v : Byte) : Mbc :=
  if a ≤ 0x1FFF then { m with ramEn := enablesRam v }
  else if a ≤ 0x3FFF then { m with romLo := zeroToOne (v &&& 0x7F) }
  else if a ≤ 0x5FFF then { m with bank2 := (v &&& 0x0F).extractLsb' 0 4 }
  else m

/-- MBC5; bank 0 is selectable (rule R170). -/
def mbc5Control (m : Mbc) (a : Nat) (v : Byte) : Mbc :=
  if a ≤ 0x1FFF then { m with ramEn := enablesRam v }
  else if a ≤ 0x2FFF then { m with romLo := v }
  else if a ≤ 0x3FFF then { m with romHi := v.extractLsb' 0 1 }
  else if a ≤ 0x5FFF then { m with bank2 := (v &&& 0x0F).extractLsb' 0 4 }
  else m

/-- The variant's control write (rules R159 to R170). -/
def controlMbc (variant : Variant) (m : Mbc) (a : Nat) (v : Byte) : Mbc :=
  match variant with
  | .noBanking => m
  | .mbc1 => mbc1Control m a v
  | .mbc2 => mbc2Control m a v
  | .mbc3 => mbc3Control m a v
  | .mbc5 => mbc5Control m a v

/-- `MbcControl(a, v)` for `a ≤ 0x7FFF`; nothing with no cartridge, and never a change of `ROM` (rule R158). -/
def mbcControl (s : State) (a : Nat) (v : Byte) : State :=
  match s.cart with
  | none => s
  | some c => { s with mbc := controlMbc c.variant s.mbc a v }

end Sys2Proof.Machine
end

