-- ==== Sys2Proof/Machine/Interrupts.lean ====
section
/-! DEFINITION. The interrupt controller's sources, requests and priority (`60_exceptions.md` rules R509, R511, R512).
Dispatch itself, which pushes PC, is in `Machine/Ops.lean`. -/

namespace Sys2Proof.Machine

/-- The five sources (rule R509). -/
inductive Irq where
  | vBlank | lcdStatus | timer | serial | joypad
  deriving DecidableEq, Repr

/-- The source's bit in IF and IE (rule R509). -/
def Irq.bit : Irq → Nat
  | .vBlank => 0 | .lcdStatus => 1 | .timer => 2 | .serial => 3 | .joypad => 4

/-- The entry address, `0x0040 + 8 * i` (rules R510, R511). -/
def Irq.vector (q : Irq) : Word := BitVec.ofNat 16 (0x0040 + 8 * q.bit)

/-- A source sets its IF bit by OR (rule R509). -/
def State.request (q : Irq) (s : State) : State := { s with ifReg := s.ifReg ||| (1#5 <<< q.bit) }

/-- `requestIf b q` requests `q` where `b` holds: the form of the STAT sources (rules R552 to R556). -/
def State.requestIf (b : Bool) (q : Irq) (s : State) : State := if b then s.request q else s

/-- `IE & IF & 0x1F` (rule R505). -/
def State.pending (s : State) : BitVec 5 := s.ie.extractLsb' 0 5 &&& s.ifReg

/-- The lowest set bit of a pending set (rules R510, R512). -/
def highestPriority (pending : BitVec 5) : Option Irq :=
  if pending.getLsbD 0 then some .vBlank
  else if pending.getLsbD 1 then some .lcdStatus
  else if pending.getLsbD 2 then some .timer
  else if pending.getLsbD 3 then some .serial
  else if pending.getLsbD 4 then some .joypad
  else none

end Sys2Proof.Machine
end

