-- ==== Sys2Proof/Machine/Ppu.lean ====
section
/-! DEFINITION. The PPU: the scanline state machine (`60_exceptions.md` rules R550 to R558) and the rasterizer (rules
R560 to R569). It reads VRAM, OAM and the LCD registers directly, past the CPU's locks (`20_memory.md` rule R132). -/

namespace Sys2Proof.Machine

/-- The number STAT shows for a mode (`10_state.md` rule R92). -/
def PpuMode.num : PpuMode → BitVec 2
  | .hBlank => 0 | .vBlank => 1 | .oamScan => 2 | .pixelTransfer => 3

/-- LCDC bit 7: LCD and PPU on (rule R80). -/
def State.lcdOn (s : State) : Bool := s.lcd.lcdc.getLsbD 7

/-! ## The rasterizer -/

/-- The shade of colour index `ci` under a palette register: `(pal >> (2*ci)) & 3` (rules R564, R568). -/
def paletteShade (pal : Byte) (ci : BitVec 2) : Shade := (pal >>> (2 * ci.toNat)).setWidth 2

/-- `TilePixel(base, px, py)`: the colour index of a tile's pixel (rule R561). -/
def tilePixel (vram : Memory) (base px py : Nat) : BitVec 2 :=
  let lo := Memory.read vram (base + 2 * py - 0x8000)
  let hi := Memory.read vram (base + 2 * py + 1 - 0x8000)
  BitVec.ofBool (hi.getLsbD (7 - px)) ++ BitVec.ofBool (lo.getLsbD (7 - px))

/-- The address of background or window tile `t`, unsigned from 0x8000 or signed around 0x9000 (rule R561). -/
def tileBase (lcdc t : Byte) : Nat :=
  if lcdc.getLsbD 4 then 0x8000 + 16 * t.toNat else (0x9000 + 16 * t.toInt).toNat

/-- The colour index at pixel (`px`, `py`) of the 256 by 256 plane whose tile map starts at `map` (rules R562, R563). -/
def mapPixel (s : State) (map px py : Nat) : BitVec 2 :=
  let t := Memory.read s.ram.vram (map + 32 * (py / 8) + px / 8 - 0x8000)
  tilePixel s.ram.vram (tileBase s.lcd.lcdc t) (px % 8) (py % 8)

/-- The start of a tile map (rules R562, R563). -/
def tileMap (second : Bool) : Nat := if second then 0x9C00 else 0x9800

/-- The background's colour index at (`x`, `ly`) (rule R562). -/
def backgroundPixel (s : State) (ly x : Nat) : BitVec 2 :=
  mapPixel s (tileMap (s.lcd.lcdc.getLsbD 3)) ((x + s.lcd.scx.toNat) % 256) ((ly + s.lcd.scy.toNat) % 256)

/-- `win_line`: the window is drawn on line `ly` (rule R563). -/
def windowOnLine (s : State) (ly : Nat) : Bool :=
  s.lcd.lcdc.getLsbD 0 && s.lcd.lcdc.getLsbD 5 && s.lcd.wy.toNat ≤ ly && s.lcd.wx.toNat ≤ 166

/-- The window's colour index at `x`; its row is WLC (rule R563). -/
def windowPixel (s : State) (x : Nat) : BitVec 2 :=
  mapPixel s (tileMap (s.lcd.lcdc.getLsbD 6)) (x + 7 - s.lcd.wx.toNat) s.ppu.wlc

/-- `bgci`: the background or window colour index at (`x`, `ly`), 0 with LCDC bit 0 clear (rules R562 to R564). -/
def bgIndex (s : State) (ly x : Nat) : BitVec 2 :=
  if s.lcd.lcdc.getLsbD 0 then
    if windowOnLine s ly && s.lcd.wx.toNat ≤ x + 7 then windowPixel s x else backgroundPixel s ly x
  else 0

/-- The background or window shade at (`x`, `ly`); BGP is not applied with LCDC bit 0 clear (rule R564). -/
def bgShade (s : State) (ly x : Nat) : Shade :=
  if s.lcd.lcdc.getLsbD 0 then paletteShade s.lcd.bgp (bgIndex s ly x) else 0

/-- An OAM entry (rule R95). -/
structure Sprite where
  y    : Nat
  x    : Nat
  tile : Byte
  attr : Byte
  deriving DecidableEq, Repr

/-- OAM entry `i` (rule R95). -/
def spriteAt (oam : Memory) (i : Nat) : Sprite where
  y    := (Memory.read oam (4 * i)).toNat
  x    := (Memory.read oam (4 * i + 1)).toNat
  tile := Memory.read oam (4 * i + 2)
  attr := Memory.read oam (4 * i + 3)

/-- The sprite height (rule R565). -/
def spriteHeight (s : State) : Nat := if s.lcd.lcdc.getLsbD 2 then 16 else 8

/-- The entry is on line `ly`: `Y ≤ ly + 16 < Y + h` (rule R565). -/
def Sprite.onLine (sp : Sprite) (h ly : Nat) : Bool := sp.y ≤ ly + 16 && ly + 16 < sp.y + h

/-- The first ten entries on the line in OAM order; none with LCDC bit 1 clear (rule R565). -/
def spritesOnLine (s : State) (ly : Nat) : List Sprite :=
  if s.lcd.lcdc.getLsbD 1 then
    (((List.range 40).map (spriteAt s.ram.oam)).filter (fun sp => sp.onLine (spriteHeight s) ly)).take 10
  else []

/-- The entry's colour index at (`x`, `ly`); none where it does not cover `x` or is transparent there (rule R566). -/
def spritePixel (s : State) (ly x : Nat) (sp : Sprite) : Option (BitVec 2) :=
  if sp.x ≤ x + 8 && x + 8 < sp.x + 8 then
    let h := spriteHeight s
    let row := if sp.attr.getLsbD 6 then h - 1 - (ly + 16 - sp.y) else ly + 16 - sp.y
    let col := if sp.attr.getLsbD 5 then 7 - (x + 8 - sp.x) else x + 8 - sp.x
    let t := if h = 16 then (sp.tile &&& 0xFE) ||| (if 8 ≤ row then 1 else 0) else sp.tile
    let ci := tilePixel s.ram.vram (0x8000 + 16 * t.toNat) col (row % 8)
    if ci = 0 then none else some ci
  else none

/-- Among sprites in OAM order with an opaque pixel at `x`, the one with the smallest X, the earliest on a tie
(rule R567). -/
def winningSprite (s : State) (ly x : Nat) : List Sprite → Option (Sprite × BitVec 2)
  | [] => none
  | sp :: rest =>
    match spritePixel s ly x sp, winningSprite s ly x rest with
    | none, later => later
    | some ci, none => some (sp, ci)
    | some ci, some (sp', ci') => if sp'.x < sp.x then some (sp', ci') else some (sp, ci)

/-- The shade of pixel (`x`, `ly`), given the sprites selected for the line (rules R560, R568). -/
def pixelShade (s : State) (sprites : List Sprite) (ly x : Nat) : Shade :=
  match winningSprite s ly x sprites with
  | none => bgShade s ly x
  | some (sp, ci) =>
    if sp.attr.getLsbD 7 && bgIndex s ly x != 0 then bgShade s ly x
    else paletteShade (if sp.attr.getLsbD 4 then s.lcd.obp1 else s.lcd.obp0) ci

/-- The 160 shades of line `ly` (rule R560). -/
def lineShades (s : State) (ly : Nat) : Vector Shade 160 :=
  let sprites := spritesOnLine s ly
  ⟨((List.range 160).map (pixelShade s sprites ly)).toArray, by simp⟩

/-- `render_line(ly)`: FB's row, then WLC where the window was drawn (rules R560, R563, R569). -/
def renderLine (s : State) (ly : Nat) : State :=
  { s with
    ppu.fb  := s.ppu.fb.setIfInBounds ly (lineShades s ly)
    ppu.wlc := if windowOnLine s ly then s.ppu.wlc + 1 else s.ppu.wlc }

/-! ## The scanline state machine -/

/-- `lyc_check()` (rule R556). -/
def lycCheck (s : State) : State := s.requestIf (s.lcd.ly == s.lcd.lyc && s.lcd.stat.getLsbD 3) .lcdStatus

/-- Entry to mode 0 at dot 252 of a visible line: the line is drawn, and STAT bit 3 may request (rules R551, R552). -/
def enterHBlank (s : State) : State :=
  let s := renderLine s s.lcd.ly.toNat
  ({ s with ppu.mode := .hBlank }).requestIf (s.lcd.stat.getLsbD 0) .lcdStatus

/-- Entry to mode 1 on line 144: the frame is completed and the v-blank request raised, and STAT bit 4 may request too
(rules R553, R554). -/
def enterVBlank (s : State) : State :=
  let s := ({ s with ppu.mode := .vBlank, ppu.front := s.ppu.fb, ppu.redrawPending := true }).request .vBlank
  s.requestIf (s.lcd.stat.getLsbD 1) .lcdStatus

/-- Entry to mode 2; STAT bit 5 may request (rule R555). -/
def enterOamScan (s : State) : State :=
  ({ s with ppu.mode := .oamScan }).requestIf (s.lcd.stat.getLsbD 2) .lcdStatus

/-- The end of a visible line: LY moves on, to the next mode 2 or to v-blank (rule R551). -/
def endVisibleLine (s : State) : State :=
  let s := { s with ppu.dot := 0, lcd.ly := s.lcd.ly + 1 }
  lycCheck (if s.lcd.ly.toNat = visibleLines then enterVBlank s else enterOamScan s)

/-- The end of a v-blank line: LY moves on, from line 153 to line 0 with WLC zeroed (rules R551, R557). -/
def endBlankLine (s : State) : State :=
  let s := { s with ppu.dot := 0, lcd.ly := s.lcd.ly + 1 }
  lycCheck (if s.lcd.ly.toNat = linesPerFrame then enterOamScan { s with lcd.ly := 0, ppu.wlc := 0 } else s)

/-- One dot with the LCD on (rule R551). -/
def ppuDot (s : State) : State :=
  let s := { s with ppu.dot := s.ppu.dot + 1 }
  if s.lcd.ly.toNat < visibleLines then
    if s.ppu.dot = mode3Dot then { s with ppu.mode := .pixelTransfer }
    else if s.ppu.dot = mode0Dot then enterHBlank s
    else if s.ppu.dot = dotsPerLine then endVisibleLine s
    else s
  else if s.ppu.dot = dotsPerLine then endBlankLine s
  else s

/-- `c` dots. -/
def ppuDots : Nat → State → State
  | 0, s => s
  | c + 1, s => ppuDots c (ppuDot s)

/-- `ppu.advance(c)`: nothing at all with the LCD off (rules R550, R558). -/
def ppuAdvance (c : Nat) (s : State) : State := if s.lcdOn then ppuDots c s else s

/-- The write of LCDC with its bit-7 side effects (rules R135, R558). -/
def lcdcWrite (v : Byte) (s : State) : State :=
  let on := { s with lcd.lcdc := v }
  if s.lcd.lcdc.getLsbD 7 && !v.getLsbD 7 then
    { on with lcd.ly := 0, ppu.dot := 0, ppu.mode := .hBlank, ppu.wlc := 0 }
  else if !s.lcd.lcdc.getLsbD 7 && v.getLsbD 7 then
    { on with lcd.ly := 0, ppu.dot := 0, ppu.mode := .oamScan, ppu.wlc := 0 }
  else on

end Sys2Proof.Machine
end

