-- ==== Sys2Proof/Machine/Bus.lean ====
section
/-! DEFINITION. The Bus: the address decoder, the locks, the I/O registers, the CPU's read and write of one byte, the
unlocked read and the OAM copy (`20_memory.md` rules R120 to R145). Every instruction fetch, data access, push and pop
goes through `memRead` and `memWrite`. -/

namespace Sys2Proof.Machine

/-- A region of the address space, with the index into its backing array where it has one (rule R124). -/
inductive Region where
  | rom
  | vram (off : Nat)
  | cram
  | wram (off : Nat)
  | oam (off : Nat)
  | unmapped
  | io
  | hram (off : Nat)
  | ie
  deriving DecidableEq, Repr

/-- The address decoder (rules R124, R130, R131); 0xE000 to 0xFDFF mirrors work RAM. -/
def region (a : Word) : Region :=
  let n := a.toNat
  if n ≤ 0x7FFF then .rom
  else if n ≤ 0x9FFF then .vram (n - 0x8000)
  else if n ≤ 0xBFFF then .cram
  else if n ≤ 0xDFFF then .wram (n - 0xC000)
  else if n ≤ 0xFDFF then .wram (n - 0xE000)
  else if n ≤ 0xFE9F then .oam (n - 0xFE00)
  else if n ≤ 0xFEFF then .unmapped
  else if n ≤ 0xFF7F then .io
  else if n ≤ 0xFFFE then .hram (n - 0xFF80)
  else .ie

/-- `VramLocked()` (rule R133). -/
def vramLocked (s : State) : Bool := s.lcdOn && s.ppu.mode == .pixelTransfer

/-- `OamLocked()` (rule R133). -/
def oamLocked (s : State) : Bool := s.lcdOn && (s.ppu.mode == .oamScan || s.ppu.mode == .pixelTransfer)

/-- The I/O registers that exist (rules R134, R135). -/
inductive IoReg where
  | div | tima | tma | tac | ifReg
  | lcdc | stat | scy | scx | ly | lyc | dma | bgp | obp0 | obp1 | wy | wx
  deriving DecidableEq, Repr

/-- The register addresses (rules R134, R135). -/
def ioTable : List (Nat × IoReg) :=
  [(0xFF04, .div), (0xFF05, .tima), (0xFF06, .tma), (0xFF07, .tac), (0xFF0F, .ifReg), (0xFF40, .lcdc), (0xFF41, .stat),
   (0xFF42, .scy), (0xFF43, .scx), (0xFF44, .ly), (0xFF45, .lyc), (0xFF46, .dma), (0xFF47, .bgp), (0xFF48, .obp0),
   (0xFF49, .obp1), (0xFF4A, .wy), (0xFF4B, .wx)]

/-- The register at an I/O address; none where nothing is mapped. -/
def ioReg? (a : Word) : Option IoReg := ioTable.lookup a.toNat

/-- STAT as read: bit 7 set, the stored bits, LY = LYC, and the mode, 0 with the LCD off (rules R81, R134). -/
def statRead (s : State) : Byte :=
  1#1 ++ s.lcd.stat ++ BitVec.ofBool (s.lcd.ly == s.lcd.lyc) ++ (if s.lcdOn then s.ppu.mode.num else 0#2)

/-- What a register reads as (rule R134). -/
def ioRegRead (s : State) : IoReg → Byte
  | .div => hiByte s.timer.sys
  | .tima => s.timer.tima
  | .tma => s.timer.tma
  | .tac => 0b11111#5 ++ s.timer.tac
  | .ifReg => 0b111#3 ++ s.ifReg
  | .lcdc => s.lcd.lcdc
  | .stat => statRead s
  | .scy => s.lcd.scy
  | .scx => s.lcd.scx
  | .ly => s.lcd.ly
  | .lyc => s.lcd.lyc
  | .dma => s.lcd.dma
  | .bgp => s.lcd.bgp
  | .obp0 => s.lcd.obp0
  | .obp1 => s.lcd.obp1
  | .wy => s.lcd.wy
  | .wx => s.lcd.wx

/-- `IoRead(a)` (rule R134). -/
def ioRead (s : State) (a : Word) : Byte :=
  match ioReg? a with
  | none => sentinel
  | some r => ioRegRead s r

/-- The read of address `a` with the two locks given (rules R130, R132). -/
def readWith (vLocked oLocked : Bool) (s : State) (a : Word) : Byte :=
  match region a with
  | .rom => romRead s a.toNat
  | .vram k => if vLocked then sentinel else Memory.read s.ram.vram k
  | .cram => cramRead s a.toNat
  | .wram k => Memory.read s.ram.wram k
  | .oam k => if oLocked then sentinel else Memory.read s.ram.oam k
  | .unmapped => sentinel
  | .io => ioRead s a
  | .hram k => Memory.read s.ram.hram k
  | .ie => s.ie

/-- `MemRead(a, 1)`, the CPU's read; it changes no state (rule R130). -/
def memRead (s : State) (a : Word) : Byte := readWith (vramLocked s) (oamLocked s) s a

/-- `RawRead(a)`, the read with both locks off (rule R132). -/
def rawRead (s : State) (a : Word) : Byte := readWith false false s a

/-- The source address of byte `i` of an OAM copy from page `v` (rule R145). -/
def oamCopySource (v : Byte) (i : Nat) : Word := BitVec.ofNat 16 (v.toNat * 256 + i)

/-- Byte `i` of an OAM copy (rule R145). -/
def oamCopyByte (v : Byte) (s : State) (i : Nat) : State :=
  { s with ram.oam := Memory.write s.ram.oam i (rawRead s (oamCopySource v i)) }

/-- The OAM copy: 160 bytes, in rising order, at once, past the lock (rule R145). -/
def oamCopy (v : Byte) (s : State) : State := (List.range oamSize).foldl (oamCopyByte v) s

/-- The effect of writing `v` to a register (rule R135). -/
def ioRegWrite (s : State) (v : Byte) : IoReg → State
  | .div => { s with timer.sys := 0 }
  | .tima => { s with timer.tima := v }
  | .tma => { s with timer.tma := v }
  | .tac => { s with timer.tac := v.extractLsb' 0 3 }
  | .ifReg => { s with ifReg := v.extractLsb' 0 5 }
  | .lcdc => lcdcWrite v s
  | .stat => { s with lcd.stat := v.extractLsb' 3 4 }
  | .scy => { s with lcd.scy := v }
  | .scx => { s with lcd.scx := v }
  | .ly => s
  | .lyc => { s with lcd.lyc := v }
  | .dma => oamCopy v { s with lcd.dma := v }
  | .bgp => { s with lcd.bgp := v }
  | .obp0 => { s with lcd.obp0 := v }
  | .obp1 => { s with lcd.obp1 := v }
  | .wy => { s with lcd.wy := v }
  | .wx => { s with lcd.wx := v }

/-- `IoWrite(a, v)` (rule R135). -/
def ioWrite (s : State) (a : Word) (v : Byte) : State :=
  match ioReg? a with
  | none => s
  | some r => ioRegWrite s v r

/-- `MemWrite(a, 1, v)`, the CPU's write (rule R131). -/
def memWrite (s : State) (a : Word) (v : Byte) : State :=
  match region a with
  | .rom => mbcControl s a.toNat v
  | .vram k => if vramLocked s then s else { s with ram.vram := Memory.write s.ram.vram k v }
  | .cram => cramWrite s a.toNat v
  | .wram k => { s with ram.wram := Memory.write s.ram.wram k v }
  | .oam k => if oamLocked s then s else { s with ram.oam := Memory.write s.ram.oam k v }
  | .unmapped => s
  | .io => ioWrite s a v
  | .hram k => { s with ram.hram := Memory.write s.ram.hram k v }
  | .ie => { s with ie := v }

end Sys2Proof.Machine
end

