-- ==== Sys2Proof/Machine/Flags.lean ====
section
/-! DEFINITION. The flags register's layout and every flag computation of the instruction rules: the 8-bit adder,
subtracter and logic (`42_alu8.md` rules R300 to R302), `DAA` (rule R338), the shifter (`44_rotate_shift_bit.md` rule
R380), and the 16-bit adders (`43_alu16.md` rules R360, R364). These are pure functions of their operands. -/

namespace Sys2Proof.Machine

/-! ## The layout of F (`10_state.md` rule R53) -/

/-- F with the four flags and bits 3..0 zero. -/
def mkF (z n h c : Bool) : Byte := BitVec.ofBool z ++ BitVec.ofBool n ++ BitVec.ofBool h ++ BitVec.ofBool c ++ 0#4

/-- Z, bit 7. -/
def flagZ (f : Byte) : Bool := f.getLsbD 7

/-- N, bit 6. -/
def flagN (f : Byte) : Bool := f.getLsbD 6

/-- H, bit 5. -/
def flagH (f : Byte) : Bool := f.getLsbD 5

/-- C, bit 4. -/
def flagC (f : Byte) : Bool := f.getLsbD 4

/-- The branch-condition test `cond(cc)` (`30_encoding.md` rule R206). -/
def condHolds (cc : Cond) (f : Byte) : Bool :=
  match cc with
  | .nz => !flagZ f
  | .z => flagZ f
  | .nc => !flagC f
  | .c => flagC f

/-! ## The 8-bit ALU -/

/-- What an ALU function returns (rule R300). -/
structure AluResult where
  r : Byte
  z : Bool
  n : Bool
  h : Bool
  c : Bool
  deriving DecidableEq, Repr

/-- The four flags of a result as F. -/
def AluResult.flags (x : AluResult) : Byte := mkF x.z x.n x.h x.c

/-- `Add8(a, b, cin)` (rule R300): the sum is taken on unbounded integers. -/
def add8 (a b : Byte) (cin : Bool) : AluResult :=
  let s := a.toNat + b.toNat + cin.toNat
  { r := BitVec.ofNat 8 s
    z := BitVec.ofNat 8 s == 0
    n := false
    h := 0x0F < (a &&& 0x0F).toNat + (b &&& 0x0F).toNat + cin.toNat
    c := 0xFF < s }

/-- `Sub8(a, b, cin)` (rule R301): the difference and both comparisons are taken on unbounded integers. -/
def sub8 (a b : Byte) (cin : Bool) : AluResult :=
  let d : Int := (a.toNat : Int) - b.toNat - cin.toNat
  { r := BitVec.ofInt 8 d
    z := BitVec.ofInt 8 d == 0
    n := true
    h := (a &&& 0x0F).toNat < (b &&& 0x0F).toNat + cin.toNat
    c := a.toNat < b.toNat + cin.toNat }

/-- `Logic(AND, a, b)` (rule R302). -/
def and8 (a b : Byte) : AluResult := { r := a &&& b, z := a &&& b == 0, n := false, h := true, c := false }

/-- `Logic(XOR, a, b)` (rule R302). -/
def xor8 (a b : Byte) : AluResult := { r := a ^^^ b, z := a ^^^ b == 0, n := false, h := false, c := false }

/-- `Logic(OR, a, b)` (rule R302). -/
def or8 (a b : Byte) : AluResult := { r := a ||| b, z := a ||| b == 0, n := false, h := false, c := false }

/-- `INC` of a byte, with the carry flag it keeps (rules R334, R335). -/
def inc8 (v : Byte) (c : Bool) : AluResult := { r := v + 1, z := v + 1 == 0, n := false, h := v &&& 0x0F == 0x0F, c := c }

/-- `DEC` of a byte, with the carry flag it keeps (rules R336, R337). -/
def dec8 (v : Byte) (c : Bool) : AluResult := { r := v - 1, z := v - 1 == 0, n := true, h := v &&& 0x0F == 0x00, c := c }

/-- `DAA`: the adjusted accumulator and flags (rule R338). Both tests of the addition branch look at A before any
adjustment. -/
def daa8 (a f : Byte) : AluResult :=
  let low : Bool := if flagN f then flagH f else flagH f || (0x09 < (a &&& 0x0F).toNat)
  let high : Bool := if flagN f then flagC f else flagC f || (0x99 < a.toNat)
  let adj : Byte := (if low then 0x06 else 0x00) ||| (if high then 0x60 else 0x00)
  let r := if flagN f then a - adj else a + adj
  { r := r, z := r == 0, n := flagN f, h := false, c := high }

/-! ## The shifter -/

/-- The eight operations of `Rot` (rule R380), in the order of their numbers. -/
inductive RotOp where
  | rlc | rrc | rl | rr | sla | sra | swap | srl
  deriving DecidableEq, Repr

/-- The result byte of `Rot(y, v, cin)` (rule R380). -/
def rotResult (op : RotOp) (v : Byte) (cin : Bool) : Byte :=
  match op with
  | .rlc => (v <<< 1) ||| (BitVec.ofBool (v.getLsbD 7)).setWidth 8
  | .rrc => (v >>> 1) ||| ((BitVec.ofBool (v.getLsbD 0)).setWidth 8 <<< 7)
  | .rl => (v <<< 1) ||| (BitVec.ofBool cin).setWidth 8
  | .rr => (v >>> 1) ||| ((BitVec.ofBool cin).setWidth 8 <<< 7)
  | .sla => v <<< 1
  | .sra => (v >>> 1) ||| (v &&& 0x80)
  | .swap => v.extractLsb' 0 4 ++ v.extractLsb' 4 4
  | .srl => v >>> 1

/-- The bit shifted out, `cout` (rule R380). -/
def rotCarry (op : RotOp) (v : Byte) : Bool :=
  match op with
  | .rlc => v.getLsbD 7
  | .rrc => v.getLsbD 0
  | .rl => v.getLsbD 7
  | .rr => v.getLsbD 0
  | .sla => v.getLsbD 7
  | .sra => v.getLsbD 0
  | .swap => false
  | .srl => v.getLsbD 0

/-- A CB-form rotate or shift: Z from the result (rule R380). -/
def rot8 (op : RotOp) (v : Byte) (cin : Bool) : AluResult :=
  { r := rotResult op v cin, z := rotResult op v cin == 0, n := false, h := false, c := rotCarry op v }

/-- A one-byte accumulator rotate: Z always cleared (rule R380). -/
def rotA8 (op : RotOp) (v : Byte) (cin : Bool) : AluResult :=
  { r := rotResult op v cin, z := false, n := false, h := false, c := rotCarry op v }

/-! ## Bits -/

/-- The flags of `BIT b`: Z the complement of the tested bit, C kept (rules R401, R402). -/
def bitFlags (b : BitNo) (v f : Byte) : Byte := mkF (!v.getLsbD b.toNat) false true (flagC f)

/-- `v & ~(1 << b)` (rules R403, R404). -/
def resetBit (b : BitNo) (v : Byte) : Byte := v &&& ~~~(1#8 <<< b.toNat)

/-- `v | (1 << b)` (rules R405, R406). -/
def setBit (b : BitNo) (v : Byte) : Byte := v ||| (1#8 <<< b.toNat)

/-! ## The 16-bit adders -/

/-- What a 16-bit addition returns. -/
structure WordSum where
  r : Word
  h : Bool
  c : Bool
  deriving DecidableEq, Repr

/-- The sum of `ADD HL,rr` with the carries out of bits 11 and 15 (rule R360). -/
def addHl16 (hl v : Word) : WordSum :=
  { r := BitVec.ofNat 16 (hl.toNat + v.toNat)
    h := 0x0FFF < (hl &&& 0x0FFF).toNat + (v &&& 0x0FFF).toNat
    c := 0xFFFF < hl.toNat + v.toNat }

/-- `AddSpE(sp, b)` (rule R364): the result uses the sign-extended displacement, the flags the raw byte. -/
def addSpE16 (sp : Word) (b : Byte) : WordSum :=
  { r := sp + b.signExtend 16
    h := 0x0F < (sp &&& 0x000F).toNat + (b &&& 0x0F).toNat
    c := 0xFF < (sp &&& 0x00FF).toNat + b.toNat }

end Sys2Proof.Machine
end

