-- ==== Sys2Proof/Machine/Ops.lean ====
section
/-! DEFINITION. The named operations of the instruction rules over registers and memory: register accessors
(`00_scope.md` rule R15), stack and step bookkeeping (rules R18, R19), the fatal condition, taking an interrupt, and the
return from it (`60_exceptions.md` rules R500, R510, R513). -/

namespace Sys2Proof.Machine

/-! ## Registers -/

/-- The register an 8-bit operand code names (`30_encoding.md` rule R203). -/
def Regs.get (g : Regs) : Reg8 → Byte
  | .b => g.b | .c => g.c | .d => g.d | .e => g.e | .h => g.h | .l => g.l | .a => g.a

/-- `g` with that register holding `v`. -/
def Regs.set (g : Regs) (r : Reg8) (v : Byte) : Regs :=
  match r with
  | .b => { g with b := v }
  | .c => { g with c := v }
  | .d => { g with d := v }
  | .e => { g with e := v }
  | .h => { g with h := v }
  | .l => { g with l := v }
  | .a => { g with a := v }

/-- `R16(p)` (`30_encoding.md` rule R204); a pair is a view of two registers (`10_state.md` rule R52). -/
def Regs.get16 (g : Regs) : Reg16 → Word
  | .bc => wordOf g.b g.c
  | .de => wordOf g.d g.e
  | .hl => wordOf g.h g.l
  | .sp => g.sp

/-- `R16(p) <- v`. -/
def Regs.set16 (g : Regs) (rr : Reg16) (v : Word) : Regs :=
  match rr with
  | .bc => { g with b := hiByte v, c := loByte v }
  | .de => { g with d := hiByte v, e := loByte v }
  | .hl => { g with h := hiByte v, l := loByte v }
  | .sp => { g with sp := v }

/-- A pair of `PUSH rr` and `POP rr` as a 16-bit operand. -/
def pairReg16 : PairReg → Reg16
  | .bc => .bc
  | .de => .de
  | .hl => .hl

/-- The register file replaced. -/
def State.withRegs (s : State) (g : Regs) : State := { s with regs := g }

/-- Read an 8-bit register. -/
def State.r8 (s : State) (r : Reg8) : Byte := s.regs.get r

/-- Write an 8-bit register. -/
def State.setR8 (s : State) (r : Reg8) (v : Byte) : State := s.withRegs (s.regs.set r v)

/-- Read a 16-bit register or pair. -/
def State.r16 (s : State) (rr : Reg16) : Word := s.regs.get16 rr

/-- Write a 16-bit register or pair. -/
def State.setR16 (s : State) (rr : Reg16) (v : Word) : State := s.withRegs (s.regs.set16 rr v)

/-- HL, the memory pointer of operand code 6. -/
def State.hl (s : State) : Word := s.r16 .hl

/-- Write F. -/
def State.setF (s : State) (f : Byte) : State := s.withRegs { s.regs with f := f }

/-- Write SP. -/
def State.setSp (s : State) (v : Word) : State := s.withRegs { s.regs with sp := v }

/-- Write PC. -/
def State.setPc (s : State) (v : Word) : State := s.withRegs { s.regs with pc := v }

/-- Write A and F from an ALU result. -/
def State.setAF (s : State) (x : AluResult) : State := (s.setR8 .a x.r).setF x.flags

/-! ## Interrupt enable, run state, step bookkeeping -/

/-- Write IME. -/
def State.setIme (s : State) (b : Bool) : State := { s with ime := b }

/-- Write `ei_pending`. -/
def State.setEiPending (s : State) (b : Bool) : State := { s with eiPending := b }

/-- Write the run state. -/
def State.setRun (s : State) (r : RunState) : State := { s with run := r }

/-- `cycles(n)`: the step reports `n`, and the counter takes it (rules R19, R505). -/
def State.tick (s : State) (n : Nat) : State := { s with cycles := s.cycles + n, report := .cycles n }

/-- An instruction of duration `n` completes. -/
def finish (n : Nat) (s : State) : Host.Outcome State Fault Refusal := .next (s.tick n)

/-! ## The stack (rule R18) -/

/-- `Push16(v)`: the high byte at SP−1, then the low byte at SP−2. -/
def push16 (s : State) (v : Word) : State :=
  let s := s.setSp (s.regs.sp - 1)
  let s := memWrite s s.regs.sp (hiByte v)
  let s := s.setSp (s.regs.sp - 1)
  memWrite s s.regs.sp (loByte v)

/-- The word `Pop16()` returns: low byte at SP, high byte at SP+1. -/
def popValue (s : State) : Word := wordOf (memRead s (s.regs.sp + 1)) (memRead s s.regs.sp)

/-- The state after `Pop16()`: SP has moved past both bytes. A read changes nothing else (rule R123). -/
def popped (s : State) : State := s.setSp (s.regs.sp + 2)

/-! ## The synchronous fault, interrupt dispatch, and the return -/

/-- `raise IllegalInstruction(opcode, PC − 1)` (rules R466, R500): PC goes back to the undefined byte, the run state
becomes FAULTED, and the step's report is the condition in place of a cycle count. Nothing else changes. -/
def raiseIllegal (opcode : Byte) (s : State) : Host.Outcome State Fault Refusal :=
  let faultPc := s.regs.pc - 1
  .next { (s.setPc faultPc).setRun (.faulted opcode faultPc) with report := .illegalInstruction opcode faultPc }

/-- Dispatch of the source `q` (rule R510): its IF bit, IME and `ei_pending` are cleared, PC is pushed, and PC takes the
source's vector. -/
def dispatchIrq (q : Irq) (s : State) : State :=
  let s := { s with ifReg := s.ifReg &&& ~~~(1#5 <<< q.bit) }
  let s := (s.setIme false).setEiPending false
  let s := push16 s s.regs.pc
  (s.setPc q.vector).tick dispatchCycles

/-- `PC <- Pop16()`, the return of `RET`, `RET cc` and `RETI` (`45_control.md` rules R437 to R439). -/
def returnPop (s : State) : State := (popped s).setPc (popValue s)

/-- The return from an interrupt: `PC <- Pop16(); IME <- 1`, nothing else restored (rules R439, R513). -/
def returnFromInterrupt (s : State) : State := (returnPop s).setIme true

end Sys2Proof.Machine
end

