-- ==== Sys2Proof/Machine/Operands.lean ====
section
/-! DEFINITION. The operand forms of the instruction rules: the memory byte at HL, the page of `LDH`, the displacement
of `JR`, and the shapes that several instructions share (an accumulator operation, a read-modify-write at HL, a
call). -/

namespace Sys2Proof.Machine

/-- Operand code 6: the byte at the address in HL (`30_encoding.md` rule R203). -/
def State.readHl (s : State) : Byte := memRead s s.hl

/-- A write to operand code 6. -/
def State.writeHl (s : State) (v : Byte) : State := memWrite s s.hl v

/-- The address `0xFF00 + zext(n)` of `LDH` (`30_encoding.md` rule R210, `40_load8.md` rules R261 to R264). -/
def highPage (n : Byte) : Word := wordOf 0xFF n

/-- The target of `JR`: PC, already past the instruction, plus the sign-extended displacement (`45_control.md` rule
R433). -/
def jrTarget (pc : Word) (e : Byte) : Word := pc + e.signExtend 16

/-- `RST`'s target, `y * 8` (`30_encoding.md` rule R209). -/
def rstTarget (t : RstNo) : Word := t.setWidth 16 <<< 3

/-- The carry flag before the instruction. -/
def State.carry (s : State) : Bool := flagC s.regs.f

/-- `Push16(PC); PC <- target`, of `CALL` and `RST` (`45_control.md` rules R435, R441). -/
def callTo (target : Word) (s : State) : State := (push16 s s.regs.pc).setPc target

/-- A read-modify-write of the byte at HL that sets all of F (`42_alu8.md` rules R335, R337, `44_rotate_shift_bit.md`
rules R386 to R400): the read, then the write at the same address, then F. -/
def modifyHl (f : Byte → AluResult) (s : State) : State :=
  (s.writeHl (f s.readHl).r).setF (f s.readHl).flags

/-- The same of a register. -/
def modifyR8 (r : Reg8) (f : Byte → AluResult) (s : State) : State :=
  (s.setR8 r (f (s.r8 r)).r).setF (f (s.r8 r)).flags

/-! ## `AluA(o, v)` (`42_alu8.md` rule R303), one definition per operation -/

/-- `AluA(0, v)`, ADD. -/
def aluAdd (v : Byte) (s : State) : State := s.setAF (add8 s.regs.a v false)

/-- `AluA(1, v)`, ADC. -/
def aluAdc (v : Byte) (s : State) : State := s.setAF (add8 s.regs.a v s.carry)

/-- `AluA(2, v)`, SUB. -/
def aluSub (v : Byte) (s : State) : State := s.setAF (sub8 s.regs.a v false)

/-- `AluA(3, v)`, SBC. -/
def aluSbc (v : Byte) (s : State) : State := s.setAF (sub8 s.regs.a v s.carry)

/-- `AluA(4, v)`, AND. -/
def aluAnd (v : Byte) (s : State) : State := s.setAF (and8 s.regs.a v)

/-- `AluA(5, v)`, XOR. -/
def aluXor (v : Byte) (s : State) : State := s.setAF (xor8 s.regs.a v)

/-- `AluA(6, v)`, OR. -/
def aluOr (v : Byte) (s : State) : State := s.setAF (or8 s.regs.a v)

/-- `AluA(7, v)`, CP: the flags of SUB, A unchanged. -/
def aluCp (v : Byte) (s : State) : State := s.setF (sub8 s.regs.a v false).flags

end Sys2Proof.Machine
end

