-- ==== Sys2Proof/Machine/Alu16.lean ====
section
/-! DEFINITION. The 16-bit arithmetic instructions (`43_alu16.md`). -/

namespace Sys2Proof.Machine

/-- `ADD HL,rr`: Z kept (rule R360). -/
def execAddHlRr (rr : Reg16) (s : State) : Host.Outcome State Fault Refusal := finish 8 ((s.setR16 .hl (addHl16 s.hl (s.r16 rr)).r).setF (mkF (flagZ s.regs.f) false (addHl16 s.hl (s.r16 rr)).h (addHl16 s.hl (s.r16 rr)).c))

/-- `INC rr`: no flag (rule R361). -/
def execIncRr (rr : Reg16) (s : State) : Host.Outcome State Fault Refusal := finish 8 (s.setR16 rr (s.r16 rr + 1))

/-- `DEC rr`: no flag (rule R362). -/
def execDecRr (rr : Reg16) (s : State) : Host.Outcome State Fault Refusal := finish 8 (s.setR16 rr (s.r16 rr - 1))

/-- `ADD SP,e`: Z and N cleared, H and C from the low-byte addition (rule R363). -/
def execAddSpE (e : Byte) (s : State) : Host.Outcome State Fault Refusal := finish 16 ((s.setSp (addSpE16 s.regs.sp e).r).setF (mkF false false (addSpE16 s.regs.sp e).h (addSpE16 s.regs.sp e).c))

end Sys2Proof.Machine
end

