-- ==== Sys2Proof/Machine/Alu8.lean ====
section
/-! DEFINITION. The 8-bit arithmetic and logic instructions (`42_alu8.md`). -/

namespace Sys2Proof.Machine

/-- `ADD A,r` (rule R310). -/
def execAddR (r : Reg8) (s : State) : Host.Outcome State Fault Refusal := finish 4 (aluAdd (s.r8 r) s)

/-- `ADD A,(HL)` (rule R311). -/
def execAddHl (s : State) : Host.Outcome State Fault Refusal := finish 8 (aluAdd s.readHl s)

/-- `ADD A,n` (rule R312). -/
def execAddN (n : Byte) (s : State) : Host.Outcome State Fault Refusal := finish 8 (aluAdd n s)

/-- `ADC A,r` (rule R313). -/
def execAdcR (r : Reg8) (s : State) : Host.Outcome State Fault Refusal := finish 4 (aluAdc (s.r8 r) s)

/-- `ADC A,(HL)` (rule R314). -/
def execAdcHl (s : State) : Host.Outcome State Fault Refusal := finish 8 (aluAdc s.readHl s)

/-- `ADC A,n` (rule R315). -/
def execAdcN (n : Byte) (s : State) : Host.Outcome State Fault Refusal := finish 8 (aluAdc n s)

/-- `SUB r` (rule R316). -/
def execSubR (r : Reg8) (s : State) : Host.Outcome State Fault Refusal := finish 4 (aluSub (s.r8 r) s)

/-- `SUB (HL)` (rule R317). -/
def execSubHl (s : State) : Host.Outcome State Fault Refusal := finish 8 (aluSub s.readHl s)

/-- `SUB n` (rule R318). -/
def execSubN (n : Byte) (s : State) : Host.Outcome State Fault Refusal := finish 8 (aluSub n s)

/-- `SBC A,r` (rule R319). -/
def execSbcR (r : Reg8) (s : State) : Host.Outcome State Fault Refusal := finish 4 (aluSbc (s.r8 r) s)

/-- `SBC A,(HL)` (rule R320). -/
def execSbcHl (s : State) : Host.Outcome State Fault Refusal := finish 8 (aluSbc s.readHl s)

/-- `SBC A,n` (rule R321). -/
def execSbcN (n : Byte) (s : State) : Host.Outcome State Fault Refusal := finish 8 (aluSbc n s)

/-- `AND r` (rule R322). -/
def execAndR (r : Reg8) (s : State) : Host.Outcome State Fault Refusal := finish 4 (aluAnd (s.r8 r) s)

/-- `AND (HL)` (rule R323). -/
def execAndHl (s : State) : Host.Outcome State Fault Refusal := finish 8 (aluAnd s.readHl s)

/-- `AND n` (rule R324). -/
def execAndN (n : Byte) (s : State) : Host.Outcome State Fault Refusal := finish 8 (aluAnd n s)

/-- `XOR r` (rule R325). -/
def execXorR (r : Reg8) (s : State) : Host.Outcome State Fault Refusal := finish 4 (aluXor (s.r8 r) s)

/-- `XOR (HL)` (rule R326). -/
def execXorHl (s : State) : Host.Outcome State Fault Refusal := finish 8 (aluXor s.readHl s)

/-- `XOR n` (rule R327). -/
def execXorN (n : Byte) (s : State) : Host.Outcome State Fault Refusal := finish 8 (aluXor n s)

/-- `OR r` (rule R328). -/
def execOrR (r : Reg8) (s : State) : Host.Outcome State Fault Refusal := finish 4 (aluOr (s.r8 r) s)

/-- `OR (HL)` (rule R329). -/
def execOrHl (s : State) : Host.Outcome State Fault Refusal := finish 8 (aluOr s.readHl s)

/-- `OR n` (rule R330). -/
def execOrN (n : Byte) (s : State) : Host.Outcome State Fault Refusal := finish 8 (aluOr n s)

/-- `CP r` (rule R331). -/
def execCpR (r : Reg8) (s : State) : Host.Outcome State Fault Refusal := finish 4 (aluCp (s.r8 r) s)

/-- `CP (HL)` (rule R332). -/
def execCpHl (s : State) : Host.Outcome State Fault Refusal := finish 8 (aluCp s.readHl s)

/-- `CP n` (rule R333). -/
def execCpN (n : Byte) (s : State) : Host.Outcome State Fault Refusal := finish 8 (aluCp n s)

/-- `INC r`: C kept (rule R334). -/
def execIncR (r : Reg8) (s : State) : Host.Outcome State Fault Refusal := finish 4 (modifyR8 r (fun v => inc8 v s.carry) s)

/-- `INC (HL)`: C kept (rule R335). -/
def execIncHl (s : State) : Host.Outcome State Fault Refusal := finish 12 (modifyHl (fun v => inc8 v s.carry) s)

/-- `DEC r`: C kept (rule R336). -/
def execDecR (r : Reg8) (s : State) : Host.Outcome State Fault Refusal := finish 4 (modifyR8 r (fun v => dec8 v s.carry) s)

/-- `DEC (HL)`: C kept (rule R337). -/
def execDecHl (s : State) : Host.Outcome State Fault Refusal := finish 12 (modifyHl (fun v => dec8 v s.carry) s)

/-- `DAA` (rule R338). -/
def execDaa (s : State) : Host.Outcome State Fault Refusal := finish 4 (s.setAF (daa8 s.regs.a s.regs.f))

/-- `CPL`: Z and C kept (rule R339). -/
def execCpl (s : State) : Host.Outcome State Fault Refusal := finish 4 ((s.setR8 .a (s.regs.a ^^^ 0xFF)).setF (mkF (flagZ s.regs.f) true true (flagC s.regs.f)))

/-- `SCF`: Z kept (rule R340). -/
def execScf (s : State) : Host.Outcome State Fault Refusal := finish 4 (s.setF (mkF (flagZ s.regs.f) false false true))

/-- `CCF`: Z kept (rule R341). -/
def execCcf (s : State) : Host.Outcome State Fault Refusal := finish 4 (s.setF (mkF (flagZ s.regs.f) false false (!flagC s.regs.f)))

end Sys2Proof.Machine
end

