-- ==== Sys2Proof/Machine/Bits.lean ====
section
/-! DEFINITION. `BIT`, `RES` and `SET` (`44_rotate_shift_bit.md`). -/

namespace Sys2Proof.Machine

/-- `BIT b,r` (rule R401). -/
def execBitR (b : BitNo) (r : Reg8) (s : State) : Host.Outcome State Fault Refusal := finish 8 (s.setF (bitFlags b (s.r8 r) s.regs.f))

/-- `BIT b,(HL)`: no write-back (rule R402). -/
def execBitHl (b : BitNo) (s : State) : Host.Outcome State Fault Refusal := finish 12 (s.setF (bitFlags b s.readHl s.regs.f))

/-- `RES b,r` (rule R403). -/
def execResR (b : BitNo) (r : Reg8) (s : State) : Host.Outcome State Fault Refusal := finish 8 (s.setR8 r (resetBit b (s.r8 r)))

/-- `RES b,(HL)`: the write happens whatever the bit was (rule R404). -/
def execResHl (b : BitNo) (s : State) : Host.Outcome State Fault Refusal := finish 16 (s.writeHl (resetBit b s.readHl))

/-- `SET b,r` (rule R405). -/
def execSetR (b : BitNo) (r : Reg8) (s : State) : Host.Outcome State Fault Refusal := finish 8 (s.setR8 r (setBit b (s.r8 r)))

/-- `SET b,(HL)`: the write happens whatever the bit was (rule R406). -/
def execSetHl (b : BitNo) (s : State) : Host.Outcome State Fault Refusal := finish 16 (s.writeHl (setBit b s.readHl))

end Sys2Proof.Machine
end

