-- ==== Sys2Proof/Machine/Control.lean ====
section
/-! DEFINITION. Jumps, calls, returns and restarts (`45_control.md`). PC is already past the instruction. -/

namespace Sys2Proof.Machine

/-- `JP nn` (rule R430). -/
def execJpNn (nn : Word) (s : State) : Host.Outcome State Fault Refusal := finish 16 (s.setPc nn)

/-- `JP cc,nn` (rule R431). -/
def execJpCcNn (cc : Cond) (nn : Word) (s : State) : Host.Outcome State Fault Refusal := if condHolds cc s.regs.f then finish 16 (s.setPc nn) else finish 12 s

/-- `JP HL`: no memory is read (rule R432). -/
def execJpHl (s : State) : Host.Outcome State Fault Refusal := finish 4 (s.setPc s.hl)

/-- `JR e` (rule R433). -/
def execJrE (e : Byte) (s : State) : Host.Outcome State Fault Refusal := finish 12 (s.setPc (jrTarget s.regs.pc e))

/-- `JR cc,e` (rule R434). -/
def execJrCcE (cc : Cond) (e : Byte) (s : State) : Host.Outcome State Fault Refusal := if condHolds cc s.regs.f then finish 12 (s.setPc (jrTarget s.regs.pc e)) else finish 8 s

/-- `CALL nn` (rule R435). -/
def execCallNn (nn : Word) (s : State) : Host.Outcome State Fault Refusal := finish 24 (callTo nn s)

/-- `CALL cc,nn` (rule R436). -/
def execCallCcNn (cc : Cond) (nn : Word) (s : State) : Host.Outcome State Fault Refusal := if condHolds cc s.regs.f then finish 24 (callTo nn s) else finish 12 s

/-- `RET` (rule R437). -/
def execRet (s : State) : Host.Outcome State Fault Refusal := finish 16 (returnPop s)

/-- `RET cc` (rule R438). -/
def execRetCc (cc : Cond) (s : State) : Host.Outcome State Fault Refusal := if condHolds cc s.regs.f then finish 20 (returnPop s) else finish 8 s

/-- `RETI`: `ei_pending` is not changed (rule R439). -/
def execReti (s : State) : Host.Outcome State Fault Refusal := finish 16 (returnFromInterrupt s)

/-- `RST t` (rule R441). -/
def execRst (t : RstNo) (s : State) : Host.Outcome State Fault Refusal := finish 16 (callTo (rstTarget t) s)

end Sys2Proof.Machine
end

