-- ==== Sys2Proof/Machine/Load16.lean ====
section
/-! DEFINITION. The 16-bit loads and the stack instructions (`41_load16.md`). -/

namespace Sys2Proof.Machine

/-- `LD rr,nn` (rule R280). -/
def execLdRrNn (rr : Reg16) (nn : Word) (s : State) : Host.Outcome State Fault Refusal := finish 12 (s.setR16 rr nn)

/-- `LD (nn),SP`: low byte first, each byte decoded on its own (rule R281). -/
def execLdNnSp (nn : Word) (s : State) : Host.Outcome State Fault Refusal := finish 20 (memWrite (memWrite s nn (loByte s.regs.sp)) (nn + 1) (hiByte s.regs.sp))

/-- `LD SP,HL` (rule R282). -/
def execLdSpHl (s : State) : Host.Outcome State Fault Refusal := finish 8 (s.setSp s.hl)

/-- `LD HL,SP+e`: Z and N cleared, H and C from the low-byte addition (rule R283). -/
def execLdHlSpE (e : Byte) (s : State) : Host.Outcome State Fault Refusal := finish 12 ((s.setR16 .hl (addSpE16 s.regs.sp e).r).setF (mkF false false (addSpE16 s.regs.sp e).h (addSpE16 s.regs.sp e).c))

/-- `PUSH rr` (rule R284). -/
def execPushRr (rr : PairReg) (s : State) : Host.Outcome State Fault Refusal := finish 16 (push16 s (s.r16 (pairReg16 rr)))

/-- `PUSH AF`: A at the higher address (rule R285). -/
def execPushAf (s : State) : Host.Outcome State Fault Refusal := finish 16 (push16 s (wordOf s.regs.a s.regs.f))

/-- `POP rr` (rule R286). -/
def execPopRr (rr : PairReg) (s : State) : Host.Outcome State Fault Refusal := finish 12 ((popped s).setR16 (pairReg16 rr) (popValue s))

/-- `POP AF`: the popped byte's bits 3..0 are dropped (rule R287). -/
def execPopAf (s : State) : Host.Outcome State Fault Refusal := finish 12 (((popped s).setR8 .a (hiByte (popValue s))).setF (loByte (popValue s) &&& 0xF0))

end Sys2Proof.Machine
end

