-- ==== Sys2Proof/Machine/Load8.lean ====
section
/-! DEFINITION. The 8-bit loads (`40_load8.md`). No flag changes. -/

namespace Sys2Proof.Machine

/-- `LD r,r'` (rule R250). -/
def execLdRR (dst : Reg8) (src : Reg8) (s : State) : Host.Outcome State Fault Refusal := finish 4 (s.setR8 dst (s.r8 src))

/-- `LD r,n` (rule R251). -/
def execLdRN (dst : Reg8) (n : Byte) (s : State) : Host.Outcome State Fault Refusal := finish 8 (s.setR8 dst n)

/-- `LD r,(HL)`: the read uses the old HL (rule R252). -/
def execLdRHl (dst : Reg8) (s : State) : Host.Outcome State Fault Refusal := finish 8 (s.setR8 dst s.readHl)

/-- `LD (HL),r` (rule R253). -/
def execLdHlR (r : Reg8) (s : State) : Host.Outcome State Fault Refusal := finish 8 (s.writeHl (s.r8 r))

/-- `LD (HL),n` (rule R254). -/
def execLdHlN (n : Byte) (s : State) : Host.Outcome State Fault Refusal := finish 12 (s.writeHl n)

/-- `LD A,(BC)` (rule R255). -/
def execLdABc (s : State) : Host.Outcome State Fault Refusal := finish 8 (s.setR8 .a (memRead s (s.r16 .bc)))

/-- `LD A,(DE)` (rule R256). -/
def execLdADe (s : State) : Host.Outcome State Fault Refusal := finish 8 (s.setR8 .a (memRead s (s.r16 .de)))

/-- `LD (BC),A` (rule R257). -/
def execLdBcA (s : State) : Host.Outcome State Fault Refusal := finish 8 (memWrite s (s.r16 .bc) (s.r8 .a))

/-- `LD (DE),A` (rule R258). -/
def execLdDeA (s : State) : Host.Outcome State Fault Refusal := finish 8 (memWrite s (s.r16 .de) (s.r8 .a))

/-- `LD A,(nn)` (rule R259). -/
def execLdANn (nn : Word) (s : State) : Host.Outcome State Fault Refusal := finish 16 (s.setR8 .a (memRead s nn))

/-- `LD (nn),A` (rule R260). -/
def execLdNnA (nn : Word) (s : State) : Host.Outcome State Fault Refusal := finish 16 (memWrite s nn (s.r8 .a))

/-- `LDH A,(C)` (rule R261). -/
def execLdhAC (s : State) : Host.Outcome State Fault Refusal := finish 8 (s.setR8 .a (memRead s (highPage (s.r8 .c))))

/-- `LDH (C),A` (rule R262). -/
def execLdhCA (s : State) : Host.Outcome State Fault Refusal := finish 8 (memWrite s (highPage (s.r8 .c)) (s.r8 .a))

/-- `LDH A,(n)` (rule R263). -/
def execLdhAN (n : Byte) (s : State) : Host.Outcome State Fault Refusal := finish 12 (s.setR8 .a (memRead s (highPage n)))

/-- `LDH (n),A` (rule R264). -/
def execLdhNA (n : Byte) (s : State) : Host.Outcome State Fault Refusal := finish 12 (memWrite s (highPage n) (s.r8 .a))

/-- `LD A,(HL-)`: the read, then HL moves (rule R265). -/
def execLdAHlDec (s : State) : Host.Outcome State Fault Refusal := finish 8 ((s.setR8 .a s.readHl).setR16 .hl (s.hl - 1))

/-- `LD (HL-),A`: the write, then HL moves, even where the write is dropped (rule R266). -/
def execLdHlDecA (s : State) : Host.Outcome State Fault Refusal := finish 8 ((s.writeHl (s.r8 .a)).setR16 .hl (s.hl - 1))

/-- `LD A,(HL+)`: the read, then HL moves (rule R267). -/
def execLdAHlInc (s : State) : Host.Outcome State Fault Refusal := finish 8 ((s.setR8 .a s.readHl).setR16 .hl (s.hl + 1))

/-- `LD (HL+),A`: the write, then HL moves, even where the write is dropped (rule R268). -/
def execLdHlIncA (s : State) : Host.Outcome State Fault Refusal := finish 8 ((s.writeHl (s.r8 .a)).setR16 .hl (s.hl + 1))

end Sys2Proof.Machine
end

