-- ==== Sys2Proof/Machine/Rotate.lean ====
section
/-! DEFINITION. The accumulator rotates and the CB-form rotates, shifts and `SWAP` (`44_rotate_shift_bit.md`). -/

namespace Sys2Proof.Machine

/-- `RLCA`: Z cleared (rule R381). -/
def execRlca (s : State) : Host.Outcome State Fault Refusal := finish 4 (s.setAF (rotA8 .rlc s.regs.a s.carry))

/-- `RRCA`: Z cleared (rule R382). -/
def execRrca (s : State) : Host.Outcome State Fault Refusal := finish 4 (s.setAF (rotA8 .rrc s.regs.a s.carry))

/-- `RLA`: Z cleared (rule R383). -/
def execRla (s : State) : Host.Outcome State Fault Refusal := finish 4 (s.setAF (rotA8 .rl s.regs.a s.carry))

/-- `RRA`: Z cleared (rule R384). -/
def execRra (s : State) : Host.Outcome State Fault Refusal := finish 4 (s.setAF (rotA8 .rr s.regs.a s.carry))

/-- `RLC r` (rule R385). -/
def execRlcR (r : Reg8) (s : State) : Host.Outcome State Fault Refusal := finish 8 (modifyR8 r (fun v => rot8 .rlc v s.carry) s)

/-- `RLC (HL)` (rule R386). -/
def execRlcHl (s : State) : Host.Outcome State Fault Refusal := finish 16 (modifyHl (fun v => rot8 .rlc v s.carry) s)

/-- `RRC r` (rule R387). -/
def execRrcR (r : Reg8) (s : State) : Host.Outcome State Fault Refusal := finish 8 (modifyR8 r (fun v => rot8 .rrc v s.carry) s)

/-- `RRC (HL)` (rule R388). -/
def execRrcHl (s : State) : Host.Outcome State Fault Refusal := finish 16 (modifyHl (fun v => rot8 .rrc v s.carry) s)

/-- `RL r` (rule R389). -/
def execRlR (r : Reg8) (s : State) : Host.Outcome State Fault Refusal := finish 8 (modifyR8 r (fun v => rot8 .rl v s.carry) s)

/-- `RL (HL)` (rule R390). -/
def execRlHl (s : State) : Host.Outcome State Fault Refusal := finish 16 (modifyHl (fun v => rot8 .rl v s.carry) s)

/-- `RR r` (rule R391). -/
def execRrR (r : Reg8) (s : State) : Host.Outcome State Fault Refusal := finish 8 (modifyR8 r (fun v => rot8 .rr v s.carry) s)

/-- `RR (HL)` (rule R392). -/
def execRrHl (s : State) : Host.Outcome State Fault Refusal := finish 16 (modifyHl (fun v => rot8 .rr v s.carry) s)

/-- `SLA r` (rule R393). -/
def execSlaR (r : Reg8) (s : State) : Host.Outcome State Fault Refusal := finish 8 (modifyR8 r (fun v => rot8 .sla v s.carry) s)

/-- `SLA (HL)` (rule R394). -/
def execSlaHl (s : State) : Host.Outcome State Fault Refusal := finish 16 (modifyHl (fun v => rot8 .sla v s.carry) s)

/-- `SRA r` (rule R395). -/
def execSraR (r : Reg8) (s : State) : Host.Outcome State Fault Refusal := finish 8 (modifyR8 r (fun v => rot8 .sra v s.carry) s)

/-- `SRA (HL)` (rule R396). -/
def execSraHl (s : State) : Host.Outcome State Fault Refusal := finish 16 (modifyHl (fun v => rot8 .sra v s.carry) s)

/-- `SWAP r` (rule R397). -/
def execSwapR (r : Reg8) (s : State) : Host.Outcome State Fault Refusal := finish 8 (modifyR8 r (fun v => rot8 .swap v s.carry) s)

/-- `SWAP (HL)` (rule R398). -/
def execSwapHl (s : State) : Host.Outcome State Fault Refusal := finish 16 (modifyHl (fun v => rot8 .swap v s.carry) s)

/-- `SRL r` (rule R399). -/
def execSrlR (r : Reg8) (s : State) : Host.Outcome State Fault Refusal := finish 8 (modifyR8 r (fun v => rot8 .srl v s.carry) s)

/-- `SRL (HL)` (rule R400). -/
def execSrlHl (s : State) : Host.Outcome State Fault Refusal := finish 16 (modifyHl (fun v => rot8 .srl v s.carry) s)

end Sys2Proof.Machine
end

