-- ==== Sys2Proof/Machine/System.lean ====
section
/-! DEFINITION. The system instructions, the CB prefix as a first byte, and the undefined first bytes (`46_system.md`). -/

namespace Sys2Proof.Machine

/-- `NOP` (rule R460). -/
def execNop (s : State) : Host.Outcome State Fault Refusal := finish 4 s

/-- `HALT` (rule R461). -/
def execHalt (s : State) : Host.Outcome State Fault Refusal := finish 4 (s.setRun .halted)

/-- `STOP`: the padding byte is not interpreted (rule R462). -/
def execStop (_pad : Byte) (s : State) : Host.Outcome State Fault Refusal := finish 4 (s.setRun .stopped)

/-- `DI`: at once, and a pending `EI` is cancelled (rule R463). -/
def execDi (s : State) : Host.Outcome State Fault Refusal := finish 4 ((s.setIme false).setEiPending false)

/-- `EI`: IME itself is not changed by this step (rule R464). -/
def execEi (s : State) : Host.Outcome State Fault Refusal := finish 4 (s.setEiPending true)

/-- The prefix byte 0xCB with its second byte `op2` executes the instruction `op2` selects, and has no duration of its
own (rule R465); `op2`'s fields as in rule R208. -/
def execPrefixCb (op2 : Byte) (s : State) : Host.Outcome State Fault Refusal :=
  match reg8? (fieldZ op2) with
  | some r =>
    match (fieldX op2).toNat with
    | 0 =>
      match (fieldY op2).toNat with
      | 0 => execRlcR r s
      | 1 => execRrcR r s
      | 2 => execRlR r s
      | 3 => execRrR r s
      | 4 => execSlaR r s
      | 5 => execSraR r s
      | 6 => execSwapR r s
      | _ => execSrlR r s
    | 1 => execBitR (fieldY op2) r s
    | 2 => execResR (fieldY op2) r s
    | _ => execSetR (fieldY op2) r s
  | none =>
    match (fieldX op2).toNat with
    | 0 =>
      match (fieldY op2).toNat with
      | 0 => execRlcHl s
      | 1 => execRrcHl s
      | 2 => execRlHl s
      | 3 => execRrHl s
      | 4 => execSlaHl s
      | 5 => execSraHl s
      | 6 => execSwapHl s
      | _ => execSrlHl s
    | 1 => execBitHl (fieldY op2) s
    | 2 => execResHl (fieldY op2) s
    | _ => execSetHl (fieldY op2) s

/-- The undefined first byte 0xD3: the fatal condition (rule R466). -/
def execIllegalD3 (s : State) : Host.Outcome State Fault Refusal := raiseIllegal 0xD3 s

/-- The undefined first byte 0xDB: the fatal condition (rule R466). -/
def execIllegalDB (s : State) : Host.Outcome State Fault Refusal := raiseIllegal 0xDB s

/-- The undefined first byte 0xDD: the fatal condition (rule R466). -/
def execIllegalDD (s : State) : Host.Outcome State Fault Refusal := raiseIllegal 0xDD s

/-- The undefined first byte 0xE3: the fatal condition (rule R466). -/
def execIllegalE3 (s : State) : Host.Outcome State Fault Refusal := raiseIllegal 0xE3 s

/-- The undefined first byte 0xE4: the fatal condition (rule R466). -/
def execIllegalE4 (s : State) : Host.Outcome State Fault Refusal := raiseIllegal 0xE4 s

/-- The undefined first byte 0xEB: the fatal condition (rule R466). -/
def execIllegalEB (s : State) : Host.Outcome State Fault Refusal := raiseIllegal 0xEB s

/-- The undefined first byte 0xEC: the fatal condition (rule R466). -/
def execIllegalEC (s : State) : Host.Outcome State Fault Refusal := raiseIllegal 0xEC s

/-- The undefined first byte 0xED: the fatal condition (rule R466). -/
def execIllegalED (s : State) : Host.Outcome State Fault Refusal := raiseIllegal 0xED s

/-- The undefined first byte 0xF4: the fatal condition (rule R466). -/
def execIllegalF4 (s : State) : Host.Outcome State Fault Refusal := raiseIllegal 0xF4 s

/-- The undefined first byte 0xFC: the fatal condition (rule R466). -/
def execIllegalFC (s : State) : Host.Outcome State Fault Refusal := raiseIllegal 0xFC s

/-- The undefined first byte 0xFD: the fatal condition (rule R466). -/
def execIllegalFD (s : State) : Host.Outcome State Fault Refusal := raiseIllegal 0xFD s

end Sys2Proof.Machine
end

