-- ==== Sys2Proof/Machine/Timer.lean ====
section
/-! DEFINITION. The timer (`60_exceptions.md` rules R540 to R543). -/

namespace Sys2Proof.Machine

/-- The period `P` that TAC bits 1..0 select (rules R69, R541). -/
def timerPeriod (tac : BitVec 3) : Nat :=
  match (tac.extractLsb' 0 2).toNat with
  | 0 => 1024
  | 1 => 16
  | 2 => 64
  | _ => 256

/-- One TIMA increment: on 0xFF it takes TMA and the timer request is raised (rule R541). -/
def timaIncrement (s : State) : State :=
  if s.timer.tima = 0xFF then ({ s with timer.tima := s.timer.tma }).request .timer
  else { s with timer.tima := s.timer.tima + 1 }

/-- One timer cycle (rule R541). -/
def timerCycle (s : State) : State :=
  let s := { s with timer.sys := s.timer.sys + 1 }
  if s.timer.tac.getLsbD 2 && s.timer.sys.toNat % timerPeriod s.timer.tac == 0 then timaIncrement s else s

/-- `timer.advance(c)` (rule R540). -/
def timerAdvance : Nat → State → State
  | 0, s => s
  | c + 1, s => timerAdvance c (timerCycle s)

end Sys2Proof.Machine
end

