-- ==== Sys2Proof/Machine/Cpu.lean ====
section
/-! DEFINITION. One CPU step (`60_exceptions.md` rule R505), one iteration of the driver's loop
(`70_reset_and_hazards.md` rule R645), and the placing of an instruction at PC from outside the machine. -/

namespace Sys2Proof.Machine

/-! ## Fetch -/

/-- The instruction at PC. A read has no side effect (`20_memory.md` rule R123) and every instruction fetches its
immediates before any other access (decision D43), so reading the three bytes ahead, and using only those of the
instruction's length, is the fetch byte by byte of rule R17. -/
def fetchedInstr (s : State) : Instr :=
  decodeBytes (memRead s s.regs.pc) (memRead s (s.regs.pc + 1)) (memRead s (s.regs.pc + 2))

/-- PC moved past the instruction's last byte (rule R17). -/
def pcPast (i : Instr) (s : State) : State := s.setPc (s.regs.pc + BitVec.ofNat 16 i.length)

/-- Line 6 of rule R505: fetch, decode, execute. -/
def fetchExecute (s : State) : Host.Outcome State Fault Refusal :=
  exec (fetchedInstr s) (pcPast (fetchedInstr s) s)

/-! ## The step -/

/-- Line 5 of rule R505: a pending `EI` takes effect. -/
def promoteEi (s : State) : State := if s.eiPending then (s.setIme true).setEiPending false else s

/-- Line 4's test: the source to dispatch, if the master enable is set and an enabled request is pending (rules R505,
R512). -/
def irqToTake (s : State) : Option Irq := if s.ime then highestPriority s.pending else none

/-- Lines 4 to 6 of rule R505. -/
def dispatchOrExecute (s : State) : Host.Outcome State Fault Refusal :=
  match irqToTake s with
  | some q => .next (dispatchIrq q s)
  | none => fetchExecute (promoteEi s)

/-- `step()` (rule R505): a faulted report, a stopped no-op, a halted tick, an interrupt dispatch, or one instruction. -/
def cpuStep (s : State) : Host.Outcome State Fault Refusal :=
  match s.run with
  | .faulted opcode pc => .fault (.illegalInstruction opcode pc)
  | .stopped => .next (s.tick 0)
  | .halted =>
    if s.pending = 0 then .next (s.tick s.params.haltTick) else dispatchOrExecute (s.setRun .running)
  | .running => dispatchOrExecute s

/-- The timer and then the PPU move by the step's cycles; neither moves where the step raised the fatal condition
(rule R645). -/
def advanceDevices (s : State) : State :=
  match s.report with
  | .cycles c => ppuAdvance c (timerAdvance c s)
  | .illegalInstruction _ _ => s

/-- `iteration()`: a step, then the timer, then the PPU (rule R645). -/
def iteration (s : State) : Host.Outcome State Fault Refusal :=
  match cpuStep s with
  | .next t => .next (advanceDevices t)
  | .fault r => .fault r
  | .refused r => .refused r

/-! ## Placing an instruction from outside -/

/-- An all-zero 32 KiB image of the variant with no banking and no RAM (rule R155). -/
def blankCartridge : Cartridge where
  image    := { length := 32768, bytes := [] }
  variant  := .noBanking
  romBanks := 2
  ramSize  := 0
  ramBanks := 0

/-- The cartridge's image with the byte `v` at the index that ROM address `a` maps to; the image grows to hold it. -/
def patchRom (c : Cartridge) (m : Mbc) (a : Nat) (v : Byte) : Cartridge :=
  { c with
    image.length := max c.image.length (romIndex c m a + 1)
    image.bytes  := Memory.write c.image.bytes (romIndex c m a) v }

/-- The byte `v` put where a fetch from `a` reads it: in the cartridge image for a ROM address, in work RAM or high RAM
for theirs, and nowhere else. -/
def placeByte (s : State) (a : Word) (v : Byte) : State :=
  match region a with
  | .rom => { s with cart := some (patchRom (s.cart.getD blankCartridge) s.mbc a.toNat v) }
  | .wram k => { s with ram.wram := Memory.write s.ram.wram k v }
  | .hram k => { s with ram.hram := Memory.write s.ram.hram k v }
  | .vram _ | .cram | .oam _ | .unmapped | .io | .ie => s

/-- The three bytes from `a` on lie in one of the regions `placeByte` writes. -/
def placeable (a : Word) : Bool :=
  a.toNat + 2 ≤ 0x7FFF || (0xC000 ≤ a.toNat && a.toNat + 2 ≤ 0xFDFF) || (0xFF80 ≤ a.toNat && a.toNat + 2 ≤ 0xFFFE)

/-- The address an instruction is placed at: PC where a fetch from there can be given any bytes, else the start of work
RAM. -/
def placeAddress (s : State) : Word := if placeable s.regs.pc then s.regs.pc else 0xC000

/-- `s` made ready to fetch: RUNNING, no interrupt to take, PC at the address of the placed instruction. -/
def readyToFetch (s : State) : State :=
  let s := if s.run = .running then s else s.setRun .running
  let s := if (irqToTake s).isSome then s.setIme false else s
  s.setPc (placeAddress s)

/-- `s` with the instruction whose bytes are `w`, byte k in bits 8k+7..8k, the bits from `nbits` on zero, placed so that
the next step fetches and runs it. -/
def placeInstruction (s : State) (nbits w : Nat) : State :=
  let v := w % 2 ^ nbits
  let s := readyToFetch s
  let a := s.regs.pc
  placeByte (placeByte (placeByte s a (BitVec.ofNat 8 v)) (a + 1) (BitVec.ofNat 8 (v / 256)))
    (a + 2) (BitVec.ofNat 8 (v / 65536))

end Sys2Proof.Machine
end

