-- ==== Sys2Proof/Machine/Step.lean ====
section
/-! DEFINITION. `step`: one iteration of the driver's loop. What it does is in `Machine/Cpu.lean`. -/

namespace Sys2Proof.Machine

/-- One iteration (`70_reset_and_hazards.md` rule R645): a CPU step, then the timer and the PPU by its cycles. -/
def step (s : State) : Host.Outcome State Fault Refusal := iteration s

/-- `s` with an instruction stored where `step` fetches next, and everything else that this takes: a cartridge with no
banking where PC is in ROM and none is loaded, RUNNING, no interrupt to take, and, where a fetch from PC cannot be given
any bytes, PC at the start of work RAM. At reset it stands for the load of a cartridge. -/
def State.withFetchWord (s : State) (nbits w : Nat) : State := placeInstruction s nbits w

end Sys2Proof.Machine
end

