-- ==== Sys2Proof/Machine/Driver.lean ====
section
/-! DEFINITION. The host's calls: `load_cartridge`, `reset`, `run_until_redraw`, `should_redraw_display` and
`display_buffer` (`70_reset_and_hazards.md` rules R640 to R649). -/

namespace Sys2Proof.Machine

/-- `reset()`: every piece of state at its reset value, the cartridge and the parameters kept (rule R641). -/
def hostReset (s : State) : State := resetState s.params s.cart

/-- `load_cartridge(bytes)`: on success the new cartridge and a reset, on failure no change at all (rule R640). -/
def loadCartridge (bytes : List Byte) (s : State) : State × Option LoadError :=
  match deriveCartridge bytes with
  | .ok c => (resetState s.params (some c), none)
  | .error e => (s, some e)

/-- What one `run_until_redraw` gives: whether a frame is ready, or the fatal condition it propagates (rule R646). -/
inductive RunResult where
  | frameReady (ready : Bool)
  | raised (opcode : Byte) (pc : Word)
  deriving DecidableEq, Repr

/-- The loop of `run_until_redraw`, with `n` iterations left before the ceiling (rule R646). -/
def runLoop : Nat → State → Host.Outcome (State × RunResult) Fault Refusal
  | 0, s => .next (s, .frameReady s.ppu.redrawPending)
  | n + 1, s =>
    if s.ppu.redrawPending then .next (s, .frameReady true)
    else
      match step s with
      | .next t =>
        match t.report with
        | .cycles _ => runLoop n t
        | .illegalInstruction opcode pc => .next (t, .raised opcode pc)
      | .fault (.illegalInstruction opcode pc) => .next (s, .raised opcode pc)
      | .refused r => .refused r

/-- `run_until_redraw()`: the driver runs, the redraw flag is cleared on entry, and the loop goes on until the flag is
set, the ceiling is reached or the fatal condition is raised; refused before any reset (rules R646, R649). -/
def runUntilRedraw (s : State) : Host.Outcome (State × RunResult) Fault Refusal :=
  match s.driver with
  | .uninitialized => .refused .driverUninitialized
  | .loaded | .running => runLoop s.params.iterCeiling { s with driver := .running, ppu.redrawPending := false }

/-- `should_redraw_display()`: the flag, and no change of state (rules R647, R649). -/
def shouldRedrawDisplay (s : State) : Host.Outcome Bool Fault Refusal :=
  match s.driver with
  | .uninitialized => .refused .driverUninitialized
  | .loaded | .running => .next s.ppu.redrawPending

/-- The four bytes of a shade, red first (rule R648). -/
def shadeBytes (p : Params) (sh : Shade) : List Byte :=
  let q := p.paletteRgba[sh.toNat]'sh.isLt
  [q.red, q.green, q.blue, q.alpha]

/-- The completed frame as bytes, row by row from the top left (rule R648). -/
def frameBytes (s : State) : List Byte :=
  s.ppu.front.toList.flatMap (fun row => row.toList.flatMap (shadeBytes s.params))

/-- `display_buffer()`: the completed frame, and no change of state (rules R648, R649). -/
def displayBuffer (s : State) : Host.Outcome (List Byte) Fault Refusal :=
  match s.driver with
  | .uninitialized => .refused .driverUninitialized
  | .loaded | .running => .next (frameBytes s)

end Sys2Proof.Machine
end

