-- ==== Sys2Proof/Safety.lean ====
section
/-! DEFINITION. The terms that the statements about the model use: what an instruction keeps, what a store may change, how
bytes and an instruction belong together, the shapes in which the table repeats an instruction, and the invariants that
rule out states no run reaches. Nothing here is used by the machine. -/

namespace Sys2Proof.Machine

/-! ## Frames -/

/-- The ten registers, by name (`10_state.md` rules R51, R55, R56). -/
inductive RegName where
  | a | f | b | c | d | e | h | l | sp | pc
  deriving DecidableEq, Repr

/-- The register's value, zero-extended. -/
def Regs.named (g : Regs) : RegName → Word
  | .a => g.a.setWidth 16
  | .f => g.f.setWidth 16
  | .b => g.b.setWidth 16
  | .c => g.c.setWidth 16
  | .d => g.d.setWidth 16
  | .e => g.e.setWidth 16
  | .h => g.h.setWidth 16
  | .l => g.l.setWidth 16
  | .sp => g.sp
  | .pc => g.pc

/-- The name of an 8-bit operand. -/
def regName : Reg8 → RegName
  | .b => .b | .c => .c | .d => .d | .e => .e | .h => .h | .l => .l | .a => .a

/-- The registers that make up a 16-bit operand (rule R52). -/
def regNames : Reg16 → List RegName
  | .bc => [.b, .c] | .de => [.d, .e] | .hl => [.h, .l] | .sp => [.sp]

/-- Every register but those of `changed` holds in `t` what it held in `s`. -/
def KeepsRegs (changed : List RegName) (s t : State) : Prop := ∀ q, q ∉ changed → t.regs.named q = s.regs.named q

/-- IME, `ei_pending` and the run state are the same. -/
structure KeepsControl (s t : State) : Prop where
  ime       : t.ime = s.ime
  eiPending : t.eiPending = s.eiPending
  run       : t.run = s.run

/-- Everything on the Bus side is the same, every register of a device and every memory, and so is the byte at every
address; and the parameters, the cartridge and the driver are. -/
structure SameBus (s t : State) : Prop where
  params : t.params = s.params
  ifReg  : t.ifReg = s.ifReg
  ie     : t.ie = s.ie
  timer  : t.timer = s.timer
  lcd    : t.lcd = s.lcd
  ppu    : t.ppu = s.ppu
  ram    : t.ram = s.ram
  cart   : t.cart = s.cart
  mbc    : t.mbc = s.mbc
  driver : t.driver = s.driver
  bytes  : ∀ a, memRead t a = memRead s a

/-- The step reports `n` cycles and the counter has taken them (`00_scope.md` rule R19, `60_exceptions.md` rule R505). -/
structure Took (n : Nat) (s t : State) : Prop where
  cycles : t.cycles = s.cycles + n
  report : t.report = .cycles n

/-- `t` is `s` after an instruction of duration `n` that may change only the registers of `changed`. -/
structure RegisterStep (n : Nat) (changed : List RegName) (s t : State) : Prop where
  regs    : KeepsRegs changed s t
  control : KeepsControl s t
  bus     : SameBus s t
  took    : Took n s t

/-- `t` is `s` after an instruction of duration `n` that may change only the registers of `changed` and whose Bus side is
that of `m`, the state after its stores. -/
structure StoreStep (n : Nat) (changed : List RegName) (m s t : State) : Prop where
  regs    : KeepsRegs changed s t
  control : KeepsControl s t
  bus     : SameBus m t
  took    : Took n s t

/-- A store to `a` in state `s` may change what a read of `b` gives: `b` names the same byte, or `a` is a control
address and `b` is one whose byte it governs (`20_memory.md` rules R123, R124, R134, R135, R145). -/
def MayChange (s : State) (a b : Word) : Prop :=
  match region a with
  | .rom => region b = .rom ∨ region b = .cram
  | .cram => region b = .cram ∧ cramIndex s b.toNat = cramIndex s a.toNat
  | .unmapped => False
  | .io =>
    match ioReg? a with
    | none => False
    | some .ly => False
    | some .lcdc => b = 0xFF40 ∨ b = 0xFF41 ∨ b = 0xFF44 ∨ (∃ k, region b = .vram k) ∨ (∃ k, region b = .oam k)
    | some .lyc => b = 0xFF45 ∨ b = 0xFF41
    | some .dma => b = 0xFF46 ∨ ∃ k, region b = .oam k
    | some _ => b = a
  | r => region b = r

/-- The two bytes of a push, as `Push16` stores them: the high byte at SP−1, then the low byte at SP−2 (`00_scope.md`
rule R18). -/
def pushed (s : State) (v : Word) : State :=
  memWrite (memWrite s (s.regs.sp - 1) (hiByte v)) (s.regs.sp - 2) (loByte v)

/-- Every byte that neither store of a push may change reads in `t` as it did in `s`. -/
def PushFrame (s : State) (v : Word) (t : State) : Prop :=
  ∀ b, ¬ MayChange s (s.regs.sp - 1) b →
    ¬ MayChange (memWrite s (s.regs.sp - 1) (hiByte v)) (s.regs.sp - 2) b → memRead t b = memRead s b

/-- `t` is `s` after an instruction of duration `n` that stores the byte `v` at `a`, and no other byte; beside that it may
change only the registers of `changed`. -/
structure StoresByte (n : Nat) (changed : List RegName) (a : Word) (v : Byte) (s t : State) : Prop where
  step  : StoreStep n changed (memWrite s a v) s t
  frame : ∀ b, ¬ MayChange s a b → memRead t b = memRead s b

/-- `t` is `s` after an instruction of duration `n` that pushes the word `v`; beside SP it may change only the registers of
`changed`. -/
structure Pushes (n : Nat) (changed : List RegName) (v : Word) (s t : State) : Prop where
  step  : StoreStep n (.sp :: changed) (pushed s v) s t
  frame : PushFrame s v t
  sp    : t.regs.sp = s.regs.sp - 2

/-- The address in HL. -/
def State.addrHl (s : State) : Word := wordOf s.regs.h s.regs.l

/-- The four flags of F are these, and its low nibble is zero (`10_state.md` rule R53). -/
structure FlagsAre (f : Byte) (z n h c : Bool) : Prop where
  z    : flagZ f = z
  n    : flagN f = n
  h    : flagH f = h
  c    : flagC f = c
  low  : f &&& 0x0F = 0

/-! ## Bytes and instructions -/

/-- `bytes` are the encoding of `i`: the encoder gives them, they are as many as the instruction's length, and the
decoder reads `i` from them, whatever follows. -/
structure Encoded (bytes : List Byte) (i : Instr) : Prop where
  encodes : encode i = bytes
  length  : i.length = bytes.length
  decodes : ∀ rest, decode (bytes ++ rest) = .ok (i, rest)

/-- The eleven undefined first bytes and their rows (`46_system.md` rule R466). -/
def undefinedRows : List (Byte × Instr) :=
  [(0xD3, .illegalD3), (0xDB, .illegalDB), (0xDD, .illegalDD), (0xE3, .illegalE3), (0xE4, .illegalE4),
   (0xEB, .illegalEB), (0xEC, .illegalEC), (0xED, .illegalED), (0xF4, .illegalF4), (0xFC, .illegalFC),
   (0xFD, .illegalFD)]

/-- Where an accumulator operation takes its second operand (`42_alu8.md` rule R303). -/
inductive AluSource where
  | reg (r : Reg8)
  | atHl
  | imm (n : Byte)
  deriving DecidableEq, Repr

/-- The operand's value. -/
def AluSource.value (s : State) : AluSource → Byte
  | .reg r => s.r8 r
  | .atHl => memRead s (s.r16 .hl)
  | .imm n => n

/-- The operation's duration (rule R303). -/
def AluSource.cycles : AluSource → Nat
  | .reg _ => 4
  | .atHl => 8
  | .imm _ => 8

/-- The encoding of operation `o` (`30_encoding.md` rule R207) on the operand. -/
def AluSource.bytes (o : BitVec 3) : AluSource → List Byte
  | .reg r => [(0b10#2 ++ o ++ r.code : Byte)]
  | .atHl => [(0b10#2 ++ o ++ 0b110#3 : Byte)]
  | .imm n => [(0b11#2 ++ o ++ 0b110#3 : Byte), n]

/-- The three rows of ADD. -/
def addForm : AluSource → Instr
  | .reg r => .addR r
  | .atHl => .addHl
  | .imm n => .addN n

/-- The three rows of ADC. -/
def adcForm : AluSource → Instr
  | .reg r => .adcR r
  | .atHl => .adcHl
  | .imm n => .adcN n

/-- The three rows of SUB. -/
def subForm : AluSource → Instr
  | .reg r => .subR r
  | .atHl => .subHl
  | .imm n => .subN n

/-- The three rows of SBC. -/
def sbcForm : AluSource → Instr
  | .reg r => .sbcR r
  | .atHl => .sbcHl
  | .imm n => .sbcN n

/-- The three rows of AND. -/
def andForm : AluSource → Instr
  | .reg r => .andR r
  | .atHl => .andHl
  | .imm n => .andN n

/-- The three rows of XOR. -/
def xorForm : AluSource → Instr
  | .reg r => .xorR r
  | .atHl => .xorHl
  | .imm n => .xorN n

/-- The three rows of OR. -/
def orForm : AluSource → Instr
  | .reg r => .orR r
  | .atHl => .orHl
  | .imm n => .orN n

/-- The three rows of CP. -/
def cpForm : AluSource → Instr
  | .reg r => .cpR r
  | .atHl => .cpHl
  | .imm n => .cpN n

/-- The number of a rotate or shift (`44_rotate_shift_bit.md` rule R380). -/
def RotOp.code : RotOp → BitVec 3
  | .rlc => 0 | .rrc => 1 | .rl => 2 | .rr => 3 | .sla => 4 | .sra => 5 | .swap => 6 | .srl => 7

/-- The row of a rotate or shift on a register. -/
def rotRegForm (op : RotOp) (r : Reg8) : Instr :=
  match op with
  | .rlc => .rlcR r
  | .rrc => .rrcR r
  | .rl => .rlR r
  | .rr => .rrR r
  | .sla => .slaR r
  | .sra => .sraR r
  | .swap => .swapR r
  | .srl => .srlR r

/-- The row of a rotate or shift on the byte at HL. -/
def rotHlForm : RotOp → Instr
  | .rlc => .rlcHl
  | .rrc => .rrcHl
  | .rl => .rlHl
  | .rr => .rrHl
  | .sla => .slaHl
  | .sra => .sraHl
  | .swap => .swapHl
  | .srl => .srlHl

/-- Bit `k` of the result of a rotate or shift of `v`: which bit moves there (rule R380, bit by bit). -/
def rotBit (op : RotOp) (v : Byte) (cin : Bool) (k : Nat) : Bool :=
  match op with
  | .rlc => if k = 0 then v.getLsbD 7 else v.getLsbD (k - 1)
  | .rrc => if k = 7 then v.getLsbD 0 else v.getLsbD (k + 1)
  | .rl => if k = 0 then cin else v.getLsbD (k - 1)
  | .rr => if k = 7 then cin else v.getLsbD (k + 1)
  | .sla => if k = 0 then false else v.getLsbD (k - 1)
  | .sra => if k = 7 then v.getLsbD 7 else v.getLsbD (k + 1)
  | .swap => if k < 4 then v.getLsbD (k + 4) else v.getLsbD (k - 4)
  | .srl => if k = 7 then false else v.getLsbD (k + 1)

/-- The bit a rotate or shift puts in C (rule R380). -/
def rotOut (op : RotOp) (v : Byte) : Bool :=
  match op with
  | .rlc | .rl | .sla => v.getLsbD 7
  | .rrc | .rr | .sra | .srl => v.getLsbD 0
  | .swap => false

/-- The instructions whose rule has a Flags line other than "none" (`10_state.md` rule R54). The prefix byte writes what
the instruction it selects writes, which is a flag for all but `RES` and `SET`. -/
def writesFlags : Instr → Bool
  | .ldRR _ _ | .ldRN _ _ | .ldRHl _ | .ldHlR _ | .ldHlN _ | .ldABc | .ldADe | .ldBcA | .ldDeA | .ldANn _ | .ldNnA _
  | .ldhAC | .ldhCA | .ldhAN _ | .ldhNA _ | .ldAHlDec | .ldHlDecA | .ldAHlInc | .ldHlIncA => false
  | .ldRrNn _ _ | .ldNnSp _ | .ldSpHl | .pushRr _ | .pushAf | .popRr _ => false
  | .ldHlSpE _ | .popAf => true
  | .addR _ | .addHl | .addN _ | .adcR _ | .adcHl | .adcN _ | .subR _ | .subHl | .subN _ | .sbcR _ | .sbcHl | .sbcN _
  | .andR _ | .andHl | .andN _ | .xorR _ | .xorHl | .xorN _ | .orR _ | .orHl | .orN _ | .cpR _ | .cpHl | .cpN _
  | .incR _ | .incHl | .decR _ | .decHl | .daa | .cpl | .scf | .ccf => true
  | .addHlRr _ | .addSpE _ => true
  | .incRr _ | .decRr _ => false
  | .rlca | .rrca | .rla | .rra | .rlcR _ | .rlcHl | .rrcR _ | .rrcHl | .rlR _ | .rlHl | .rrR _ | .rrHl | .slaR _
  | .slaHl | .sraR _ | .sraHl | .swapR _ | .swapHl | .srlR _ | .srlHl | .bitR _ _ | .bitHl _ => true
  | .resR _ _ | .resHl _ | .setR _ _ | .setHl _ => false
  | .jpNn _ | .jpCcNn _ _ | .jpHl | .jrE _ | .jrCcE _ _ | .callNn _ | .callCcNn _ _ | .ret | .retCc _ | .reti
  | .rst _ => false
  | .nop | .halt | .stop _ | .di | .ei => false
  | .prefixCb _ => true
  | .illegalD3 | .illegalDB | .illegalDD | .illegalE3 | .illegalE4 | .illegalEB | .illegalEC | .illegalED | .illegalF4
  | .illegalFC | .illegalFD => false

/-! ## Runs -/

/-- `n` iterations of the driver's loop lead from `s` to `t`: each begins with the redraw flag clear and reports cycles
(`70_reset_and_hazards.md` rules R645, R646). -/
def Iterates : Nat → State → State → Prop
  | 0, s, t => t = s
  | n + 1, s, t => s.ppu.redrawPending = false ∧ ∃ u c, step s = .next u ∧ u.report = .cycles c ∧ Iterates n u t

/-! ## Invariants -/

/-- F's low nibble is zero (rule R53). -/
def FlagsOk (s : State) : Prop := s.regs.f &&& 0x0F = 0

/-- A cartridge as the load makes it (`20_memory.md` rule R155): its image in canonical form, and the counts that follow
from the image and the header. -/
structure CartridgeOk (c : Cartridge) : Prop where
  image    : c.image.bytes.wf
  inImage  : c.image.bytes.below c.image.length
  header   : headerEnd ≤ c.image.length
  romBanks : c.romBanks = romBanksFor c.image.length
  ramBanks : c.ramBanks = ramBanksFor c.ramSize
  mbc2Ram  : c.variant = .mbc2 → c.ramSize = 512

/-- The byte at index `k` of the cartridge's image, the sentinel past its end (rule R156). -/
def Cartridge.byteAt (c : Cartridge) (k : Nat) : Byte :=
  if k < c.image.length then Memory.read c.image.bytes k else 0xFF

/-- The size of cartridge RAM; none without a cartridge (rule R97). -/
def State.ramSize (s : State) : Nat :=
  match s.cart with
  | none => 0
  | some c => c.ramSize

/-- Every memory is in its canonical form and inside its size (rules R94, R97). -/
structure MemoryOk (s : State) : Prop where
  vram : s.ram.vram.wf ∧ s.ram.vram.below 8192
  wram : s.ram.wram.wf ∧ s.ram.wram.below 8192
  oam  : s.ram.oam.wf ∧ s.ram.oam.below 160
  hram : s.ram.hram.wf ∧ s.ram.hram.below 127
  cram : s.ram.cram.wf ∧ s.ram.cram.below s.ramSize
  cart : ∀ c, s.cart = some c → CartridgeOk c

/-- The mode of line `ly` at dot `dot` with the LCD on (`60_exceptions.md` rules R550, R557). -/
def modeAt (ly dot : Nat) : PpuMode :=
  if 144 ≤ ly then .vBlank else if dot < 80 then .oamScan else if dot < 252 then .pixelTransfer else .hBlank

/-- How many lines of the frame have been drawn (rule R551). -/
def linesDrawn (ly dot : Nat) : Nat := if 144 ≤ ly then 144 else if dot < 252 then ly else ly + 1

/-- LY and the dot are in range, with the LCD on the mode follows from them (rule R557), with the LCD off both are 0 (rule
R558), and the window has been drawn on no more lines than have been drawn (rule R563, and log entry 9 for the value 144). -/
structure PpuOk (s : State) : Prop where
  ly     : s.lcd.ly.toNat < 154
  dot    : s.ppu.dot < 456
  on     : s.lcdOn = true → s.ppu.mode = modeAt s.lcd.ly.toNat s.ppu.dot
  off    : s.lcdOn = false → s.lcd.ly = 0 ∧ s.ppu.dot = 0
  window : s.ppu.wlc ≤ linesDrawn s.lcd.ly.toNat s.ppu.dot

/-- The bank controller's registers are inside the variant's widths, and a bank field that the zero-to-one adjustment
guards is not 0 (`10_state.md` rule R98, `20_memory.md` rules R160 to R170). -/
def mbcInRange (v : Variant) (m : Mbc) : Prop :=
  match v with
  | .noBanking => True
  | .mbc1 => 1 ≤ m.romLo.toNat ∧ m.romLo.toNat < 32 ∧ m.bank2.toNat < 4
  | .mbc2 => 1 ≤ m.romLo.toNat ∧ m.romLo.toNat < 16
  | .mbc3 => 1 ≤ m.romLo.toNat ∧ m.romLo.toNat < 128
  | .mbc5 => True

/-- The registers of the loaded cartridge's controller are in range. -/
def MbcOk (s : State) : Prop := ∀ c, s.cart = some c → mbcInRange c.variant s.mbc

/-- Every invariant of the model. -/
structure Invariant (s : State) : Prop where
  flags  : FlagsOk s
  memory : MemoryOk s
  ppu    : PpuOk s
  mbc    : MbcOk s

end Sys2Proof.Machine
end

