-- ==== Sys2Proof/Certificates/Slice0/Obligations.lean ====
section
/-! DEFINITION. The statements about the model, one definition each; `OBLIGATIONS.json` lists them. Their terms are in
`Safety.lean`. -/

open Sys2Proof Sys2Proof.Machine

/-! ## Encoding -/

/-- Decode and encode agree: the bytes of a well-formed instruction, whatever follows them, decode to it, with every
operand, and they are as many as its length (`30_encoding.md` rules R200 to R214). -/
def Obligations.DecodingAnEncodingGivesTheInstructionBack : Prop :=
  ∀ i : Instr, i.wellFormed = true → Encoded (encode i) i

/-- Encode and decode agree: whatever bytes decode, encoding the result gives the bytes read, so that no bit of an
encoding is dropped and no two byte sequences mean one instruction (rules R200 to R214). -/
def Obligations.EncodingADecodingGivesTheBytesBack : Prop :=
  ∀ (bytes rest : List Byte) (i : Instr),
    decode bytes = .ok (i, rest) → i.wellFormed = true ∧ encode i ++ rest = bytes

/-- Words written out from the tables of rules R211 to R213 decode to the instructions they stand for. -/
def Obligations.WrittenOutWordsDecode : Prop :=
  decode [0x41] = .ok (.ldRR .b .c, []) ∧
  decode [0x36, 0xFF] = .ok (.ldHlN 0xFF, []) ∧
  decode [0x08, 0x34, 0x12] = .ok (.ldNnSp 0x1234, []) ∧
  decode [0xF5] = .ok (.pushAf, []) ∧
  decode [0x9E] = .ok (.sbcHl, []) ∧
  decode [0x39] = .ok (.addHlRr .sp, []) ∧
  decode [0xCB, 0x7E] = .ok (.bitHl 7, []) ∧
  decode [0xCB, 0x37] = .ok (.swapR .a, []) ∧
  decode [0x38, 0x10] = .ok (.jrCcE .c 0x10, []) ∧
  decode [0xEF] = .ok (.rst 5, []) ∧
  decode [0x76] = .ok (.halt, []) ∧
  decode [0xDD] = .ok (.illegalDD, []) ∧
  decode [0xC3, 0x50] = .error .truncated

/-- Rule R465: the prefix byte with its second byte is one instruction of two bytes, it executes the instruction that the
second byte selects, and it takes that instruction's cycles. -/
def Obligations.ThePrefixByteExecutesWhatItsSecondByteSelects : Prop :=
  ∀ (op2 b2 : Byte) (s : State),
    decodeBytes 0xCB op2 b2 = decodeCb op2 ∧ (decodeCb op2).length = 2 ∧
    ∃ t, exec (.prefixCb op2) s = .next t ∧ exec (decodeCb op2) s = .next t ∧
      Took (if op2.toNat % 8 = 6 then (if op2.toNat / 64 = 1 then 12 else 16) else 8) s t

/-! ## The step -/

/-- When the bytes at PC decode to an instruction and no interrupt is to be taken, a step promotes a pending `EI`, moves
PC past the instruction, executes it, and advances the timer and then the PPU by the cycles it reports
(`60_exceptions.md` rule R505, `70_reset_and_hazards.md` rule R645). -/
def Obligations.AStepRunsTheInstructionDecodedAtPc : Prop :=
  ∀ (s : State) (i : Instr) (rest : List Byte),
    s.run = .running → irqToTake s = none →
    decode [memRead s s.regs.pc, memRead s (s.regs.pc + 1), memRead s (s.regs.pc + 2)] = .ok (i, rest) →
    i.wellFormed = true ∧
    step s =
      match exec i ((promoteEi s).setPc (s.regs.pc + BitVec.ofNat 16 i.length)) with
      | .next t =>
        .next (match t.report with
          | .cycles c => ppuAdvance c (timerAdvance c t)
          | .illegalInstruction _ _ => t)
      | .fault r => .fault r
      | .refused r => .refused r

/-- Rules R510 and R512: with IME set, a running or halted machine takes the lowest-numbered request that is pending and
enabled: its IF bit and no other is cleared, IME and `ei_pending` are cleared, PC is pushed, PC becomes 0x0040 + 8·i, and
20 cycles pass. Nothing else is saved or changed. -/
def Obligations.TheLowestNumberedEnabledRequestIsDispatched : Prop :=
  ∀ (s : State) (i : Nat),
    i < 5 → (s.run = .running ∨ s.run = .halted) → s.ime = true →
    s.ie.getLsbD i = true → s.ifReg.getLsbD i = true →
    (∀ j < i, (s.ie.getLsbD j && s.ifReg.getLsbD j) = false) →
    ∃ cleared t : State,
      cleared = { s with ifReg := cleared.ifReg } ∧
      (∀ j < 5, cleared.ifReg.getLsbD j = (s.ifReg.getLsbD j && j != i)) ∧
      cpuStep s = .next t ∧ step s = .next (ppuAdvance 20 (timerAdvance 20 t)) ∧
      t.regs.pc.toNat = 0x0040 + 8 * i ∧ t.regs.sp = s.regs.sp - 2 ∧ KeepsRegs [.pc, .sp] s t ∧
      t.ime = false ∧ t.eiPending = false ∧ t.run = .running ∧
      SameBus (pushed cleared s.regs.pc) t ∧ PushFrame cleared s.regs.pc t ∧ Took 20 s t

/-- Rule R506: while no enabled request is pending a halted step adds `HALT_TICK` cycles and changes nothing else; once one
is, whatever IME is, the same step goes on as a running one, so that it dispatches or executes with no cycles added. -/
def Obligations.AHaltedStepWaitsForAnEnabledRequest : Prop :=
  ∀ s : State, s.run = .halted →
    ((∀ j < 5, (s.ie.getLsbD j && s.ifReg.getLsbD j) = false) →
      cpuStep s = .next { s with cycles := s.cycles + s.params.haltTick, report := .cycles s.params.haltTick }) ∧
    (∀ j < 5, (s.ie.getLsbD j && s.ifReg.getLsbD j) = true → cpuStep s = cpuStep { s with run := .running })

/-- Rules R501 and R507: a stopped step reports 0 cycles and changes nothing, the devices included; a faulted step reports
the same two values again, `run_until_redraw` propagates them at its first iteration, and a reset and a successful load
leave both states. -/
def Obligations.StoppedAndFaultedMachinesStandStill : Prop :=
  (∀ s : State, s.run = .stopped → step s = .next { s with report := .cycles 0 }) ∧
  (∀ (s : State) (opcode : Byte) (pc : Word), s.run = .faulted opcode pc →
    step s = .fault (.illegalInstruction opcode pc) ∧
    (s.driver ≠ .uninitialized → 1 ≤ s.params.iterCeiling →
      runUntilRedraw s =
        .next ({ s with driver := .running, ppu.redrawPending := false }, .raised opcode pc))) ∧
  ∀ (s : State) (bytes : List Byte),
    (hostReset s).run = .running ∧ ((loadCartridge bytes s).2 = none → (loadCartridge bytes s).1.run = .running)

/-- Rule R464: `EI` sets `ei_pending`, does not itself change IME (an `EI` before it may, at this step's promotion point),
and changes nothing else of the CPU but PC; where IME was not about to rise, no interrupt is taken before the next
instruction; and that instruction runs with IME set, so that IME is set after it unless it was `DI`. -/
def Obligations.EiTakesEffectOneInstructionLate : Prop :=
  ∀ s : State, s.run = .running → irqToTake s = none → memRead s s.regs.pc = 0xFB →
    ∃ t, step s = .next t ∧ t.regs.pc = s.regs.pc + 1 ∧ KeepsRegs [.pc] s t ∧ t.run = .running ∧
      t.ime = (s.ime || s.eiPending) ∧ t.eiPending = true ∧ t.report = .cycles 4 ∧
      ((s.ime || s.eiPending) = false → irqToTake t = none) ∧
      (irqToTake t = none →
        ∀ u, step t = .next u → u.ime = !decide (fetchedInstr t = .di) ∧ u.eiPending = decide (fetchedInstr t = .ei))

/-- Rules R500 to R502: every instruction and every step completes, in every state; only a machine already faulted
reports the fault again, and nothing is ever refused. That the first report is a next state is the model's choice (log
entry 3). -/
def Obligations.EveryStepCompletesUnlessFaulted : Prop :=
  (∀ (i : Instr) (s : State), ∃ t, exec i s = .next t) ∧
  ∀ s : State, (∃ t, step s = .next t) ∨
    ∃ opcode pc, s.run = .faulted opcode pc ∧ step s = .fault (.illegalInstruction opcode pc)

/-- Rules R19, R505 and R670: the counter takes exactly the cycles a step reports, a running step's are a multiple of 4
from 4 to 24, a stopped one's are 0, and a step that ends in the fatal condition takes none. The field that holds the
report is the model's own (log entry 2). -/
def Obligations.TheCounterTakesTheReportedCycles : Prop :=
  ∀ s t : State, step s = .next t →
    match t.report with
    | .cycles n =>
      t.cycles = s.cycles + n ∧ (s.run = .running → n % 4 = 0 ∧ 4 ≤ n ∧ n ≤ 24) ∧ (s.run = .stopped → n = 0)
    | .illegalInstruction _ _ => t.cycles = s.cycles

/-- Rule R54: an instruction whose rule has no flags to write leaves F as it is, and so does an interrupt dispatch. -/
def Obligations.OnlyFlagWritersChangeF : Prop :=
  (∀ (i : Instr) (s t : State), writesFlags i = false → exec i s = .next t → t.regs.f = s.regs.f) ∧
  ∀ (q : Irq) (s : State), (dispatchIrq q s).regs.f = s.regs.f

/-- Rules R57 and R440(f): in a step IME rises only by a pending `EI` or by `RETI`, and falls only by an interrupt
dispatch or by `DI`. -/
def Obligations.OnlyEiRetiDiAndDispatchChangeIme : Prop :=
  ∀ s t : State, step s = .next t →
    (s.ime = false → t.ime = true → s.eiPending = true ∨ fetchedInstr s = .reti) ∧
    (s.ime = true → t.ime = false → (∃ q, irqToTake s = some q) ∨ fetchedInstr s = .di)

/-- Rule R62: a step enters HALTED only by `HALT` and leaves it only when an enabled request is pending; it enters STOPPED
only by `STOP` and leaves it never; it enters FAULTED only by an undefined first byte, whose value and address it records,
and from FAULTED no step gives a next state, which is the model's choice for rule R501's repeated report (log entry 3). -/
def Obligations.TheRunStateChangesOnlyAsItsRulesSay : Prop :=
  ∀ s t : State, step s = .next t →
    (t.run = .halted → s.run = .halted ∨ fetchedInstr s = .halt) ∧
    (t.run = .stopped → s.run = .stopped ∨ ∃ pad, fetchedInstr s = .stop pad) ∧
    (∀ opcode pc, t.run = .faulted opcode pc →
      (∃ row ∈ undefinedRows, row.1 = memRead s s.regs.pc) ∧
      opcode = memRead s s.regs.pc ∧ pc = s.regs.pc ∧ t.regs.pc = s.regs.pc) ∧
    (s.run = .halted → t.run ≠ .halted → ∃ j < 5, (s.ie.getLsbD j && s.ifReg.getLsbD j) = true) ∧
    (s.run = .stopped → t.run = .stopped) ∧
    ∀ opcode pc, s.run ≠ .faulted opcode pc

/-- Rules R102 and R158: no step and no Bus write changes the cartridge image, its configuration, the parameters or the
driver state. -/
def Obligations.NoStepChangesTheCartridgeOrTheParameters : Prop :=
  (∀ s t : State, step s = .next t → t.cart = s.cart ∧ t.params = s.params ∧ t.driver = s.driver) ∧
  ∀ (s : State) (a : Word) (v : Byte),
    let t := memWrite s a v
    t.cart = s.cart ∧ t.params = s.params ∧ t.driver = s.driver

/-! ## Invariants -/

/-- Rule R53: every step keeps F's low nibble zero. -/
def Obligations.EveryStepKeepsTheLowNibbleOfFZero : Prop :=
  ∀ s t : State, FlagsOk s → step s = .next t → FlagsOk t

/-- Every step keeps every memory in its canonical form and inside its size (rules R94, R97). The canonical form is the
model's own choice (log entry 6). -/
def Obligations.EveryStepKeepsTheMemoriesCanonicalAndInBounds : Prop :=
  ∀ s t : State, MemoryOk s → step s = .next t → MemoryOk t

/-- Every step keeps the invariants of the scanline state machine: LY, the dot and the mode as rule R557 says with the LCD
on, LY and the dot 0 as rule R558 says with it off. That the window line counter is no more than the lines drawn, and so
can be 144 where rule R92 says 0 to 143, is the model's reading of rule R563 (log entry 9). -/
def Obligations.EveryStepKeepsTheScanlineInvariants : Prop :=
  ∀ s t : State, PpuOk s → step s = .next t → PpuOk t

/-- Every step keeps the bank controller's registers inside the variant's widths, and a guarded bank field non-zero
(rules R98, R161, R164, R167). -/
def Obligations.EveryStepKeepsTheBankRegistersInRange : Prop :=
  ∀ s t : State, MbcOk s → step s = .next t → MbcOk t

/-- After reset, with any parameters and any cartridge that a load makes, every invariant holds; and it holds in the
state after reset itself. The canonical form of the memories and of the image, and the bound on the window line counter,
are the model's own (log entries 6 and 9). -/
def Obligations.EveryInvariantHoldsAfterReset : Prop :=
  (∀ (p : Params) (cart : Option Cartridge), (∀ c, cart = some c → CartridgeOk c) → Invariant (resetState p cart)) ∧
  Invariant State.reset

/-- The reset table of `10_state.md` rule R104, for any state the machine was in: what the reset leaves in every
register, memory and device, as a read of it gives; the image and the configuration are kept; and a successful load is a
reset with the new cartridge. -/
def Obligations.ResetLeavesTheTableValues : Prop :=
  (∀ (s : State) (bytes : List Byte), (loadCartridge bytes s).2 = none →
    (loadCartridge bytes s).1 = hostReset { s with cart := (loadCartridge bytes s).1.cart }) ∧
  ∀ s : State,
    let t := hostReset s
    (t.regs.a = 0x01 ∧ t.regs.f = 0xB0 ∧ t.regs.b = 0x00 ∧ t.regs.c = 0x13 ∧ t.regs.d = 0x00 ∧ t.regs.e = 0xD8 ∧
      t.regs.h = 0x01 ∧ t.regs.l = 0x4D ∧ t.regs.sp = 0xFFFE ∧ t.regs.pc = 0x0100) ∧
    (t.ime = false ∧ t.eiPending = false ∧ t.run = .running ∧ t.cycles = 0 ∧ t.driver = .loaded) ∧
    (t.ifReg = 0 ∧ t.ie = 0x00 ∧ t.timer.sys = 0 ∧ t.timer.tima = 0x00 ∧ t.timer.tma = 0x00 ∧ t.timer.tac = 0) ∧
    (t.lcd.lcdc = s.params.resetLcdc ∧ t.lcd.stat = 0 ∧ t.lcd.scy = 0x00 ∧ t.lcd.scx = 0x00 ∧ t.lcd.ly = 0 ∧
      t.lcd.lyc = 0x00 ∧ t.lcd.dma = 0x00 ∧ t.lcd.bgp = s.params.resetBgp ∧ t.lcd.obp0 = s.params.resetObp0 ∧
      t.lcd.obp1 = s.params.resetObp1 ∧ t.lcd.wy = 0x00 ∧ t.lcd.wx = 0x00) ∧
    (t.ppu.mode = .oamScan ∧ t.ppu.dot = 0 ∧ t.ppu.wlc = 0 ∧ t.ppu.redrawPending = false ∧
      ∀ (y : Fin 144) (x : Fin 160), t.ppu.fb[y][x] = 0 ∧ t.ppu.front[y][x] = 0) ∧
    (∀ k, Memory.read t.ram.vram k = 0x00 ∧ Memory.read t.ram.wram k = 0x00 ∧ Memory.read t.ram.oam k = 0x00 ∧
      Memory.read t.ram.hram k = 0x00 ∧ Memory.read t.ram.cram k = 0x00) ∧
    (t.mbc.ramEn = false ∧ t.mbc.romLo = 1 ∧ t.mbc.romHi = 0 ∧ t.mbc.bank2 = 0 ∧ t.mbc.bmode = false) ∧
    t.cart = s.cart ∧ t.params = s.params

/-- Rules R155, R96 and R640: an image shorter than 0x0150 bytes fails as malformed; one whose type byte, or, on a type other
than MBC2's, whose RAM size code is not in rule R155's tables fails as unsupported; a failure changes nothing; a success
installs the image byte for byte with the variant, the RAM size and the counts of banks of those tables, and resets. -/
def Obligations.LoadingACartridgeInstallsItOrChangesNothing : Prop :=
  ∀ (bytes : List Byte) (s : State),
    let r := loadCartridge bytes s
    let type := (bytes.getD 0x0147 0).toNat
    let code := (bytes.getD 0x0149 0).toNat
    let types : Variant → List Nat := fun
      | .noBanking => [0x00, 0x08, 0x09]
      | .mbc1 => [0x01, 0x02, 0x03]
      | .mbc2 => [0x05, 0x06]
      | .mbc3 => [0x0F, 0x10, 0x11, 0x12, 0x13]
      | .mbc5 => [0x19, 0x1A, 0x1B, 0x1C, 0x1D, 0x1E]
    let ramSizes := [0, 2048, 8192, 32768, 131072, 65536]
    (r.2 = some .malformedCartridge ↔ bytes.length < 0x0150) ∧
    (r.2 = some .unsupportedCartridgeType ↔ 0x0150 ≤ bytes.length ∧
      ((∀ v, type ∉ types v) ∨ (type ∉ types .mbc2 ∧ 5 < code))) ∧
    (∀ e, r.2 = some e → r.1 = s) ∧
    (r.2 = none → ∃ c, r.1 = resetState s.params (some c) ∧ CartridgeOk c ∧
      c.image.length = bytes.length ∧ (∀ k, Memory.read c.image.bytes k = bytes.getD k 0) ∧
      type ∈ types c.variant ∧
      (type ∈ types .mbc2 → c.ramSize = 512) ∧ (type ∉ types .mbc2 → ramSizes[code]? = some c.ramSize) ∧
      c.ramBanks = (if c.ramSize = 0 then 0 else max 1 (c.ramSize / 8192)) ∧
      bytes.length ≤ c.romBanks * 16384 ∧ c.romBanks * 16384 < bytes.length + 16384)

/-! ## Loads -/

/-- Rules R250 to R252, R255, R256, R259, R261, R263, R265 and R267: each 8-bit load to a register has its encoding,
completes in every state, puts the source's value into its register (HL− and HL+ also move HL by one, after the read),
and changes nothing else. -/
def Obligations.EightBitLoadsToRegisters : Prop :=
  ∀ s : State,
    (∀ dst src : Reg8, Encoded [(0b01#2 ++ dst.code ++ src.code : Byte)] (.ldRR dst src) ∧
      ∃ t, exec (.ldRR dst src) s = .next t ∧ t.r8 dst = s.r8 src ∧ RegisterStep 4 [regName dst] s t) ∧
    (∀ (dst : Reg8) (n : Byte), Encoded [(0b00#2 ++ dst.code ++ 0b110#3 : Byte), n] (.ldRN dst n) ∧
      ∃ t, exec (.ldRN dst n) s = .next t ∧ t.r8 dst = n ∧ RegisterStep 8 [regName dst] s t) ∧
    (∀ dst : Reg8, Encoded [(0b01#2 ++ dst.code ++ 0b110#3 : Byte)] (.ldRHl dst) ∧
      ∃ t, exec (.ldRHl dst) s = .next t ∧ t.r8 dst = memRead s s.addrHl ∧ RegisterStep 8 [regName dst] s t) ∧
    (Encoded [0x0A] .ldABc ∧
      ∃ t, exec .ldABc s = .next t ∧ t.regs.a = memRead s (wordOf s.regs.b s.regs.c) ∧ RegisterStep 8 [.a] s t) ∧
    (Encoded [0x1A] .ldADe ∧
      ∃ t, exec .ldADe s = .next t ∧ t.regs.a = memRead s (wordOf s.regs.d s.regs.e) ∧ RegisterStep 8 [.a] s t) ∧
    (∀ nn : Word, Encoded [0xFA, loByte nn, hiByte nn] (.ldANn nn) ∧
      ∃ t, exec (.ldANn nn) s = .next t ∧ t.regs.a = memRead s nn ∧ RegisterStep 16 [.a] s t) ∧
    (Encoded [0xF2] .ldhAC ∧
      ∃ t, exec .ldhAC s = .next t ∧ t.regs.a = memRead s (0xFF00 + s.regs.c.setWidth 16) ∧ RegisterStep 8 [.a] s t) ∧
    (∀ n : Byte, Encoded [0xF0, n] (.ldhAN n) ∧
      ∃ t, exec (.ldhAN n) s = .next t ∧ t.regs.a = memRead s (0xFF00 + n.setWidth 16) ∧ RegisterStep 12 [.a] s t) ∧
    (Encoded [0x3A] .ldAHlDec ∧
      ∃ t, exec .ldAHlDec s = .next t ∧ t.regs.a = memRead s s.addrHl ∧ t.addrHl = s.addrHl - 1 ∧
        RegisterStep 8 [.a, .h, .l] s t) ∧
    (Encoded [0x2A] .ldAHlInc ∧
      ∃ t, exec .ldAHlInc s = .next t ∧ t.regs.a = memRead s s.addrHl ∧ t.addrHl = s.addrHl + 1 ∧
        RegisterStep 8 [.a, .h, .l] s t)

/-- Rules R253, R254, R257, R258, R260, R262, R264, R266 and R268: each 8-bit store has its encoding, completes in every
state, writes its byte through the Bus at the address its operand gives (HL− and HL+ also move HL by one, even where the
write is dropped), and changes no other byte and no other register. -/
def Obligations.EightBitStores : Prop :=
  ∀ s : State,
    (∀ r : Reg8, Encoded [(0b01110#5 ++ r.code : Byte)] (.ldHlR r) ∧
      ∃ t, exec (.ldHlR r) s = .next t ∧ StoresByte 8 [] s.addrHl (s.r8 r) s t) ∧
    (∀ n : Byte, Encoded [0x36, n] (.ldHlN n) ∧
      ∃ t, exec (.ldHlN n) s = .next t ∧ StoresByte 12 [] s.addrHl n s t) ∧
    (Encoded [0x02] .ldBcA ∧
      ∃ t, exec .ldBcA s = .next t ∧ StoresByte 8 [] (wordOf s.regs.b s.regs.c) s.regs.a s t) ∧
    (Encoded [0x12] .ldDeA ∧
      ∃ t, exec .ldDeA s = .next t ∧ StoresByte 8 [] (wordOf s.regs.d s.regs.e) s.regs.a s t) ∧
    (∀ nn : Word, Encoded [0xEA, loByte nn, hiByte nn] (.ldNnA nn) ∧
      ∃ t, exec (.ldNnA nn) s = .next t ∧ StoresByte 16 [] nn s.regs.a s t) ∧
    (Encoded [0xE2] .ldhCA ∧
      ∃ t, exec .ldhCA s = .next t ∧ StoresByte 8 [] (0xFF00 + s.regs.c.setWidth 16) s.regs.a s t) ∧
    (∀ n : Byte, Encoded [0xE0, n] (.ldhNA n) ∧
      ∃ t, exec (.ldhNA n) s = .next t ∧ StoresByte 12 [] (0xFF00 + n.setWidth 16) s.regs.a s t) ∧
    (Encoded [0x32] .ldHlDecA ∧
      ∃ t, exec .ldHlDecA s = .next t ∧ t.addrHl = s.addrHl - 1 ∧ StoresByte 8 [.h, .l] s.addrHl s.regs.a s t) ∧
    (Encoded [0x22] .ldHlIncA ∧
      ∃ t, exec .ldHlIncA s = .next t ∧ t.addrHl = s.addrHl + 1 ∧ StoresByte 8 [.h, .l] s.addrHl s.regs.a s t)

/-- Rules R280, R281 and R282: the 16-bit loads. `LD (nn),SP` stores the low byte at nn and then the high byte at nn + 1,
each decoded on its own. -/
def Obligations.SixteenBitLoads : Prop :=
  ∀ s : State,
    (∀ (rr : Reg16) (nn : Word), Encoded [(0b00#2 ++ rr.code ++ 0b0001#4 : Byte), loByte nn, hiByte nn] (.ldRrNn rr nn) ∧
      ∃ t, exec (.ldRrNn rr nn) s = .next t ∧ t.r16 rr = nn ∧ RegisterStep 12 (regNames rr) s t) ∧
    (∀ nn : Word, Encoded [0x08, loByte nn, hiByte nn] (.ldNnSp nn) ∧
      ∃ t m, exec (.ldNnSp nn) s = .next t ∧ m = memWrite s nn (loByte s.regs.sp) ∧
        StoreStep 20 [] (memWrite m (nn + 1) (hiByte s.regs.sp)) s t ∧
        ∀ b, ¬ MayChange s nn b → ¬ MayChange m (nn + 1) b → memRead t b = memRead s b) ∧
    (Encoded [0xF9] .ldSpHl ∧
      ∃ t, exec .ldSpHl s = .next t ∧ t.regs.sp = s.addrHl ∧ RegisterStep 8 [.sp] s t)

/-- Rules R283, R363 and R364: the sum of SP and the signed displacement, taken on integers and wrapped, goes to HL or to
SP; Z and N are cleared, and H and C are the carries of adding the raw displacement byte to SP's low byte. -/
def Obligations.StackPointerPlusDisplacement : Prop :=
  ∀ (e : Byte) (s : State),
    let carries := fun f => FlagsAre f false false (15 < s.regs.sp.toNat % 16 + e.toNat % 16)
      (255 < s.regs.sp.toNat % 256 + e.toNat)
    (Encoded [0xF8, e] (.ldHlSpE e) ∧
      ∃ t, exec (.ldHlSpE e) s = .next t ∧ (t.addrHl.toNat : Int) = (s.regs.sp.toNat + e.toInt) % 65536 ∧
        carries t.regs.f ∧ RegisterStep 12 [.h, .l, .f] s t) ∧
    (Encoded [0xE8, e] (.addSpE e) ∧
      ∃ t, exec (.addSpE e) s = .next t ∧ (t.regs.sp.toNat : Int) = (s.regs.sp.toNat + e.toInt) % 65536 ∧
        carries t.regs.f ∧ RegisterStep 16 [.sp, .f] s t)

/-- Rules R284 and R285: a push stores the pair's high byte at SP−1 and then its low byte at SP−2, each through the Bus,
moves SP down by two, and changes no other byte and no other register. -/
def Obligations.PushesStoreThePairBelowSp : Prop :=
  ∀ s : State,
    (∀ rr : PairReg, Encoded [(0b11#2 ++ rr.code ++ 0b0101#4 : Byte)] (.pushRr rr) ∧
      ∃ t, exec (.pushRr rr) s = .next t ∧ Pushes 16 [] (s.r16 (pairReg16 rr)) s t) ∧
    (Encoded [0xF5] .pushAf ∧
      ∃ t, exec .pushAf s = .next t ∧ Pushes 16 [] (wordOf s.regs.a s.regs.f) s t)

/-- Rules R286 and R287: a pop reads the low byte at SP and the high byte at SP+1, moves SP up by two, and drops the low
nibble of a byte popped into F. -/
def Obligations.PopsLoadThePairAtSp : Prop :=
  ∀ s : State,
    let lo := memRead s s.regs.sp
    let hi := memRead s (s.regs.sp + 1)
    (∀ rr : PairReg, Encoded [(0b11#2 ++ rr.code ++ 0b0001#4 : Byte)] (.popRr rr) ∧
      ∃ t, exec (.popRr rr) s = .next t ∧ t.r16 (pairReg16 rr) = wordOf hi lo ∧ t.regs.sp = s.regs.sp + 2 ∧
        RegisterStep 12 (.sp :: regNames (pairReg16 rr)) s t) ∧
    (Encoded [0xF1] .popAf ∧
      ∃ t, exec .popAf s = .next t ∧ t.regs.a = hi ∧
        FlagsAre t.regs.f (lo.getLsbD 7) (lo.getLsbD 6) (lo.getLsbD 5) (lo.getLsbD 4) ∧ t.regs.sp = s.regs.sp + 2 ∧
        RegisterStep 12 [.a, .f, .sp] s t)

/-! ## Arithmetic and logic -/

/-- Rules R300 and R310 to R315: ADD and ADC, from a register, the byte at HL or an immediate: A is the unbounded sum
modulo 256, Z whether that is 0, N clear, H the carry out of bit 3 and C the carry out of bit 7. -/
def Obligations.AddAndAdcGiveTheSumAndItsCarries : Prop :=
  ∀ (x : AluSource) (s : State),
    let a := s.regs.a.toNat
    let v := (x.value s).toNat
    let result := fun (cin : Nat) (t : State) =>
      t.regs.a.toNat = (a + v + cin) % 256 ∧
      FlagsAre t.regs.f ((a + v + cin) % 256 = 0) false (15 < a % 16 + v % 16 + cin) (255 < a + v + cin) ∧
      RegisterStep x.cycles [.a, .f] s t
    (Encoded (x.bytes 0) (addForm x) ∧ ∃ t, exec (addForm x) s = .next t ∧ result 0 t) ∧
    (Encoded (x.bytes 1) (adcForm x) ∧ ∃ t, exec (adcForm x) s = .next t ∧ result (flagC s.regs.f).toNat t)

/-- Rules R301, R316 to R321 and R331 to R333: SUB, SBC and CP: the difference modulo 256, Z whether that is 0, N set, H
the borrow into bit 4 and C the borrow out of bit 7; CP sets SUB's flags and leaves A. -/
def Obligations.SubSbcAndCpGiveTheDifferenceAndItsBorrows : Prop :=
  ∀ (x : AluSource) (s : State),
    let a := s.regs.a.toNat
    let v := (x.value s).toNat
    let difference := fun (cin : Nat) => ((a : Int) - v - cin) % 256
    let flags := fun (cin : Nat) (t : State) =>
      FlagsAre t.regs.f (difference cin = 0) true (a % 16 < v % 16 + cin) (a < v + cin)
    (Encoded (x.bytes 2) (subForm x) ∧ ∃ t, exec (subForm x) s = .next t ∧
      (t.regs.a.toNat : Int) = difference 0 ∧ flags 0 t ∧ RegisterStep x.cycles [.a, .f] s t) ∧
    (Encoded (x.bytes 3) (sbcForm x) ∧ ∃ t, exec (sbcForm x) s = .next t ∧
      (t.regs.a.toNat : Int) = difference (flagC s.regs.f).toNat ∧ flags (flagC s.regs.f).toNat t ∧
      RegisterStep x.cycles [.a, .f] s t) ∧
    (Encoded (x.bytes 7) (cpForm x) ∧ ∃ t, exec (cpForm x) s = .next t ∧ flags 0 t ∧ RegisterStep x.cycles [.f] s t)

/-- Rules R302 and R322 to R330: AND, XOR and OR, bit by bit; AND sets H, XOR and OR clear it, and all clear N and C. -/
def Obligations.AndXorAndOrActBitByBit : Prop :=
  ∀ (x : AluSource) (s : State),
    let v := x.value s
    let result := fun (bit : Bool → Bool → Bool) (h : Bool) (t : State) =>
      (∀ k < 8, t.regs.a.getLsbD k = bit (s.regs.a.getLsbD k) (v.getLsbD k)) ∧
      FlagsAre t.regs.f (t.regs.a = 0) false h false ∧ RegisterStep x.cycles [.a, .f] s t
    (Encoded (x.bytes 4) (andForm x) ∧ ∃ t, exec (andForm x) s = .next t ∧ result and true t) ∧
    (Encoded (x.bytes 5) (xorForm x) ∧ ∃ t, exec (xorForm x) s = .next t ∧ result xor false t) ∧
    (Encoded (x.bytes 6) (orForm x) ∧ ∃ t, exec (orForm x) s = .next t ∧ result or false t)

/-- Rules R334 to R337: INC and DEC of a register and of the byte at HL: one up or down modulo 256, Z and H from the
result and the operand's low nibble, C kept. -/
def Obligations.IncAndDecOfAByteKeepTheCarry : Prop :=
  ∀ s : State,
    let up := fun (v : Byte) (f : Byte) =>
      FlagsAre f ((v.toNat + 1) % 256 = 0) false (v.toNat % 16 = 15) (flagC s.regs.f)
    let down := fun (v : Byte) (f : Byte) =>
      FlagsAre f ((v.toNat + 255) % 256 = 0) true (v.toNat % 16 = 0) (flagC s.regs.f)
    let m := memRead s s.addrHl
    (∀ r : Reg8, Encoded [(0b00#2 ++ r.code ++ 0b100#3 : Byte)] (.incR r) ∧
      ∃ t, exec (.incR r) s = .next t ∧ (t.r8 r).toNat = ((s.r8 r).toNat + 1) % 256 ∧ up (s.r8 r) t.regs.f ∧
        RegisterStep 4 [regName r, .f] s t) ∧
    (Encoded [0x34] .incHl ∧
      ∃ t, exec .incHl s = .next t ∧ up m t.regs.f ∧ StoresByte 12 [.f] s.addrHl (BitVec.ofNat 8 (m.toNat + 1)) s t) ∧
    (∀ r : Reg8, Encoded [(0b00#2 ++ r.code ++ 0b101#3 : Byte)] (.decR r) ∧
      ∃ t, exec (.decR r) s = .next t ∧ (t.r8 r).toNat = ((s.r8 r).toNat + 255) % 256 ∧ down (s.r8 r) t.regs.f ∧
        RegisterStep 4 [regName r, .f] s t) ∧
    (Encoded [0x35] .decHl ∧
      ∃ t, exec .decHl s = .next t ∧ down m t.regs.f ∧ StoresByte 12 [.f] s.addrHl (BitVec.ofNat 8 (m.toNat + 255)) s t)

/-- Rule R338: DAA adds 6 to a low digit and 60H to a high one where the flags or, after an addition, the digits ask for
it, looking at A before any adjustment; N is kept, H cleared, C never cleared. -/
def Obligations.DaaAdjustsEachDigit : Prop :=
  Encoded [0x27] .daa ∧
  ∀ s : State,
    let a := s.regs.a.toNat
    let f := s.regs.f
    let low := flagH f || (!flagN f && decide (9 < a % 16))
    let high := flagC f || (!flagN f && decide (0x99 < a))
    let adj := (if low then 0x06 else 0) + (if high then 0x60 else 0)
    ∃ t, exec .daa s = .next t ∧ t.regs.a.toNat = (if flagN f then a + 256 - adj else a + adj) % 256 ∧
      FlagsAre t.regs.f (t.regs.a = 0) (flagN f) false high ∧ RegisterStep 4 [.a, .f] s t

/-- Rules R339, R340 and R341: CPL complements every bit of A and sets N and H; SCF sets and CCF inverts the carry, with N
and H cleared; all keep Z. -/
def Obligations.CplScfAndCcf : Prop :=
  ∀ s : State,
    (Encoded [0x2F] .cpl ∧ ∃ t, exec .cpl s = .next t ∧ t.regs.a.toNat = 255 - s.regs.a.toNat ∧
      FlagsAre t.regs.f (flagZ s.regs.f) true true (flagC s.regs.f) ∧ RegisterStep 4 [.a, .f] s t) ∧
    (Encoded [0x37] .scf ∧ ∃ t, exec .scf s = .next t ∧
      FlagsAre t.regs.f (flagZ s.regs.f) false false true ∧ RegisterStep 4 [.f] s t) ∧
    (Encoded [0x3F] .ccf ∧ ∃ t, exec .ccf s = .next t ∧
      FlagsAre t.regs.f (flagZ s.regs.f) false false (!flagC s.regs.f) ∧ RegisterStep 4 [.f] s t)

/-- Rules R360, R361 and R362: ADD HL,rr gives the sum modulo 65536 with the carries out of bits 11 and 15 and keeps Z;
INC rr and DEC rr move the pair by one modulo 65536 and touch no flag. -/
def Obligations.SixteenBitArithmetic : Prop :=
  ∀ (rr : Reg16) (s : State),
    let hl := s.addrHl.toNat
    let v := (s.r16 rr).toNat
    (Encoded [(0b00#2 ++ rr.code ++ 0b1001#4 : Byte)] (.addHlRr rr) ∧
      ∃ t, exec (.addHlRr rr) s = .next t ∧ t.addrHl.toNat = (hl + v) % 65536 ∧
        FlagsAre t.regs.f (flagZ s.regs.f) false (4095 < hl % 4096 + v % 4096) (65535 < hl + v) ∧
        RegisterStep 8 [.h, .l, .f] s t) ∧
    (Encoded [(0b00#2 ++ rr.code ++ 0b0011#4 : Byte)] (.incRr rr) ∧
      ∃ t, exec (.incRr rr) s = .next t ∧ (t.r16 rr).toNat = (v + 1) % 65536 ∧ RegisterStep 8 (regNames rr) s t) ∧
    (Encoded [(0b00#2 ++ rr.code ++ 0b1011#4 : Byte)] (.decRr rr) ∧
      ∃ t, exec (.decRr rr) s = .next t ∧ (t.r16 rr).toNat = (v + 65535) % 65536 ∧ RegisterStep 8 (regNames rr) s t)

/-! ## Rotates, shifts and bits -/

/-- Rules R381 to R384: the four one-byte rotates of A, bit by bit, with C the bit shifted out and Z always cleared. -/
def Obligations.AccumulatorRotatesMoveEveryBitAndClearZ : Prop :=
  ∀ s : State,
    let result := fun (op : RotOp) (t : State) =>
      (∀ k < 8, t.regs.a.getLsbD k = rotBit op s.regs.a (flagC s.regs.f) k) ∧
      FlagsAre t.regs.f false false false (rotOut op s.regs.a) ∧ RegisterStep 4 [.a, .f] s t
    (Encoded [0x07] .rlca ∧ ∃ t, exec .rlca s = .next t ∧ result .rlc t) ∧
    (Encoded [0x0F] .rrca ∧ ∃ t, exec .rrca s = .next t ∧ result .rrc t) ∧
    (Encoded [0x17] .rla ∧ ∃ t, exec .rla s = .next t ∧ result .rl t) ∧
    (Encoded [0x1F] .rra ∧ ∃ t, exec .rra s = .next t ∧ result .rr t)

/-- Rules R385, R387, R389, R391, R393, R395, R397 and R399: the eight CB-form rotates and shifts of a register, bit by
bit, with C the bit shifted out and Z from the result. -/
def Obligations.RegisterRotatesMoveEveryBit : Prop :=
  ∀ (op : RotOp) (r : Reg8) (s : State),
    Encoded [0xCB, (0b00#2 ++ op.code ++ r.code : Byte)] (rotRegForm op r) ∧
    ∃ t, exec (rotRegForm op r) s = .next t ∧
      (∀ k < 8, (t.r8 r).getLsbD k = rotBit op (s.r8 r) (flagC s.regs.f) k) ∧
      FlagsAre t.regs.f (t.r8 r = 0) false false (rotOut op (s.r8 r)) ∧ RegisterStep 8 [regName r, .f] s t

/-- Rules R386, R388, R390, R392, R394, R396, R398 and R400: the same eight on the byte at HL, a read and then a write at
the same address. -/
def Obligations.MemoryRotatesMoveEveryBit : Prop :=
  ∀ (op : RotOp) (s : State),
    Encoded [0xCB, (0b00#2 ++ op.code ++ 0b110#3 : Byte)] (rotHlForm op) ∧
    ∃ t w, exec (rotHlForm op) s = .next t ∧
      (∀ k < 8, w.getLsbD k = rotBit op (memRead s s.addrHl) (flagC s.regs.f) k) ∧
      FlagsAre t.regs.f (w = 0) false false (rotOut op (memRead s s.addrHl)) ∧ StoresByte 16 [.f] s.addrHl w s t

/-- Rules R401 and R402: BIT puts the complement of the tested bit in Z, clears N, sets H, keeps C, and writes nothing
back. -/
def Obligations.BitTestsOneBit : Prop :=
  ∀ (b : BitNo) (s : State),
    (∀ r : Reg8, Encoded [0xCB, (0b01#2 ++ b ++ r.code : Byte)] (.bitR b r) ∧
      ∃ t, exec (.bitR b r) s = .next t ∧
        FlagsAre t.regs.f (!(s.r8 r).getLsbD b.toNat) false true (flagC s.regs.f) ∧ RegisterStep 8 [.f] s t) ∧
    (Encoded [0xCB, (0b01#2 ++ b ++ 0b110#3 : Byte)] (.bitHl b) ∧
      ∃ t, exec (.bitHl b) s = .next t ∧
        FlagsAre t.regs.f (!(memRead s s.addrHl).getLsbD b.toNat) false true (flagC s.regs.f) ∧
        RegisterStep 12 [.f] s t)

/-- Rules R403 to R406: RES clears and SET sets the named bit of a register or of the byte at HL, and no other bit; no flag
changes, and the memory forms write whatever the bit was. -/
def Obligations.ResAndSetWriteOneBit : Prop :=
  ∀ (b : BitNo) (s : State),
    let written := fun (one : Bool) (v w : Byte) => ∀ k < 8, w.getLsbD k = if k = b.toNat then one else v.getLsbD k
    let m := memRead s s.addrHl
    (∀ r : Reg8, Encoded [0xCB, (0b10#2 ++ b ++ r.code : Byte)] (.resR b r) ∧
      ∃ t, exec (.resR b r) s = .next t ∧ written false (s.r8 r) (t.r8 r) ∧ RegisterStep 8 [regName r] s t) ∧
    (Encoded [0xCB, (0b10#2 ++ b ++ 0b110#3 : Byte)] (.resHl b) ∧
      ∃ t w, exec (.resHl b) s = .next t ∧ written false m w ∧ StoresByte 16 [] s.addrHl w s t) ∧
    (∀ r : Reg8, Encoded [0xCB, (0b11#2 ++ b ++ r.code : Byte)] (.setR b r) ∧
      ∃ t, exec (.setR b r) s = .next t ∧ written true (s.r8 r) (t.r8 r) ∧ RegisterStep 8 [regName r] s t) ∧
    (Encoded [0xCB, (0b11#2 ++ b ++ 0b110#3 : Byte)] (.setHl b) ∧
      ∃ t w, exec (.setHl b) s = .next t ∧ written true m w ∧ StoresByte 16 [] s.addrHl w s t)

/-! ## Control transfer -/

/-- Rules R206 and R430 to R434: the jumps, with PC already past the instruction: the absolute ones load PC, the relative
ones add the signed displacement to it modulo 65536, and the conditional ones do so when their flag is as asked, with the
duration of each outcome. Only PC changes. -/
def Obligations.JumpsLoadPcWhenTheirConditionHolds : Prop :=
  (∀ f : Byte, condHolds .nz f = !f.getLsbD 7 ∧ condHolds .z f = f.getLsbD 7 ∧ condHolds .nc f = !f.getLsbD 4 ∧
    condHolds .c f = f.getLsbD 4) ∧
  ∀ s : State,
    let relative := fun (e : Byte) (t : State) => (t.regs.pc.toNat : Int) = (s.regs.pc.toNat + e.toInt) % 65536
    (∀ nn : Word, Encoded [0xC3, loByte nn, hiByte nn] (.jpNn nn) ∧
      ∃ t, exec (.jpNn nn) s = .next t ∧ t.regs.pc = nn ∧ RegisterStep 16 [.pc] s t) ∧
    (∀ (cc : Cond) (nn : Word), Encoded [(0b110#3 ++ cc.code ++ 0b010#3 : Byte), loByte nn, hiByte nn] (.jpCcNn cc nn) ∧
      ∃ t, exec (.jpCcNn cc nn) s = .next t ∧
        if condHolds cc s.regs.f then t.regs.pc = nn ∧ RegisterStep 16 [.pc] s t else RegisterStep 12 [] s t) ∧
    (Encoded [0xE9] .jpHl ∧
      ∃ t, exec .jpHl s = .next t ∧ t.regs.pc = s.addrHl ∧ RegisterStep 4 [.pc] s t) ∧
    (∀ e : Byte, Encoded [0x18, e] (.jrE e) ∧
      ∃ t, exec (.jrE e) s = .next t ∧ relative e t ∧ RegisterStep 12 [.pc] s t) ∧
    (∀ (cc : Cond) (e : Byte), Encoded [(0b001#3 ++ cc.code ++ 0b000#3 : Byte), e] (.jrCcE cc e) ∧
      ∃ t, exec (.jrCcE cc e) s = .next t ∧
        if condHolds cc s.regs.f then relative e t ∧ RegisterStep 12 [.pc] s t else RegisterStep 8 [] s t)

/-- Rules R435, R436 and R441: a call pushes PC, already past the instruction, and loads PC with its target; a conditional
call that is not taken touches neither SP nor memory; RST's target is eight times its field. -/
def Obligations.CallsPushPcAndLoadIt : Prop :=
  ∀ s : State,
    (∀ nn : Word, Encoded [0xCD, loByte nn, hiByte nn] (.callNn nn) ∧
      ∃ t, exec (.callNn nn) s = .next t ∧ t.regs.pc = nn ∧ Pushes 24 [.pc] s.regs.pc s t) ∧
    (∀ (cc : Cond) (nn : Word), Encoded [(0b110#3 ++ cc.code ++ 0b100#3 : Byte), loByte nn, hiByte nn] (.callCcNn cc nn) ∧
      ∃ t, exec (.callCcNn cc nn) s = .next t ∧
        if condHolds cc s.regs.f then t.regs.pc = nn ∧ Pushes 24 [.pc] s.regs.pc s t else RegisterStep 12 [] s t) ∧
    (∀ y : RstNo, Encoded [(0b11#2 ++ y ++ 0b111#3 : Byte)] (.rst y) ∧
      ∃ t, exec (.rst y) s = .next t ∧ t.regs.pc.toNat = 8 * y.toNat ∧ Pushes 16 [.pc] s.regs.pc s t)

/-- Rules R437, R438 and R439: a return loads PC with the low byte at SP and the high byte at SP+1 and moves SP up by two;
a conditional one that is not taken changes nothing; RETI also sets IME at once and leaves `ei_pending`. -/
def Obligations.ReturnsPopPc : Prop :=
  ∀ s : State,
    let popped := fun (t : State) =>
      t.regs.pc = wordOf (memRead s (s.regs.sp + 1)) (memRead s s.regs.sp) ∧ t.regs.sp = s.regs.sp + 2
    (Encoded [0xC9] .ret ∧ ∃ t, exec .ret s = .next t ∧ popped t ∧ RegisterStep 16 [.pc, .sp] s t) ∧
    (∀ cc : Cond, Encoded [(0b110#3 ++ cc.code ++ 0b000#3 : Byte)] (.retCc cc) ∧
      ∃ t, exec (.retCc cc) s = .next t ∧
        if condHolds cc s.regs.f then popped t ∧ RegisterStep 20 [.pc, .sp] s t else RegisterStep 8 [] s t) ∧
    (Encoded [0xD9] .reti ∧ ∃ t, exec .reti s = .next t ∧ popped t ∧ t.ime = true ∧ t.eiPending = s.eiPending ∧
      t.run = s.run ∧ KeepsRegs [.pc, .sp] s t ∧ SameBus s t ∧ Took 16 s t)

/-! ## System instructions and undefined bytes -/

/-- Rules R460 to R464: NOP does nothing; HALT and STOP set the run state, whatever STOP's second byte is; DI clears IME
and a pending EI at once; EI sets `ei_pending` and leaves IME. No register, no byte and no device changes. -/
def Obligations.SystemInstructionsSetTheRunStateAndTheEnables : Prop :=
  ∀ s : State,
    let quiet := fun (t : State) => KeepsRegs [] s t ∧ SameBus s t ∧ Took 4 s t
    (Encoded [0x00] .nop ∧ ∃ t, exec .nop s = .next t ∧ RegisterStep 4 [] s t) ∧
    (Encoded [0x76] .halt ∧ ∃ t, exec .halt s = .next t ∧ t.run = .halted ∧ t.ime = s.ime ∧
      t.eiPending = s.eiPending ∧ quiet t) ∧
    (∀ pad : Byte, Encoded [0x10, pad] (.stop pad) ∧ ∃ t, exec (.stop pad) s = .next t ∧ t.run = .stopped ∧
      t.ime = s.ime ∧ t.eiPending = s.eiPending ∧ quiet t) ∧
    (Encoded [0xF3] .di ∧ ∃ t, exec .di s = .next t ∧ t.ime = false ∧ t.eiPending = false ∧ t.run = s.run ∧ quiet t) ∧
    (Encoded [0xFB] .ei ∧ ∃ t, exec .ei s = .next t ∧ t.ime = s.ime ∧ t.eiPending = true ∧ t.run = s.run ∧ quiet t)

/-- Rules R466 and R500: each of the eleven undefined first bytes puts PC back to its own address, enters FAULTED with the
byte and that address as the report, and changes nothing else, not even the cycle counter; no other first byte does. -/
def Obligations.UndefinedFirstBytesRaiseTheFatalCondition : Prop :=
  (∀ row ∈ undefinedRows, Encoded [row.1] row.2 ∧
    ∀ s : State, ∃ t, exec row.2 s = .next t ∧ t.regs.pc = s.regs.pc - 1 ∧
      t.run = .faulted row.1 (s.regs.pc - 1) ∧ t.report = .illegalInstruction row.1 (s.regs.pc - 1) ∧
      t.cycles = s.cycles ∧ t.ime = s.ime ∧ t.eiPending = s.eiPending ∧ KeepsRegs [.pc] s t ∧ SameBus s t) ∧
  ∀ (op b1 b2 : Byte) (s t : State), (∀ row ∈ undefinedRows, row.1 ≠ op) →
    exec (decodeBytes op b1 b2) s = .next t → ∃ n, t.report = .cycles n

/-! ## The Bus -/

/-- Rules R130 to R133: the CPU's read and write by address range, with the two locks: a locked read returns the sentinel
and a locked write is dropped; `RawRead` is the same read with both locks off. -/
def Obligations.TheAddressDecoderRoutesEveryAccess : Prop :=
  ∀ (s : State) (a : Word) (v : Byte),
    let n := a.toNat
    let on := s.lcd.lcdc.getLsbD 7
    let vLock := on = true ∧ s.ppu.mode = .pixelTransfer
    let oLock := on = true ∧ (s.ppu.mode = .oamScan ∨ s.ppu.mode = .pixelTransfer)
    (n ≤ 0x7FFF → memRead s a = romRead s n ∧ rawRead s a = romRead s n ∧ memWrite s a v = mbcControl s n v) ∧
    (0x8000 ≤ n → n ≤ 0x9FFF →
      rawRead s a = Memory.read s.ram.vram (n - 0x8000) ∧
      (vLock → memRead s a = 0xFF ∧ memWrite s a v = s) ∧
      (¬ vLock → memRead s a = rawRead s a ∧
        memWrite s a v = { s with ram.vram := Memory.write s.ram.vram (n - 0x8000) v })) ∧
    (0xA000 ≤ n → n ≤ 0xBFFF → memRead s a = cramRead s n ∧ rawRead s a = cramRead s n ∧
      memWrite s a v = cramWrite s n v) ∧
    (0xC000 ≤ n → n ≤ 0xDFFF → memRead s a = Memory.read s.ram.wram (n - 0xC000) ∧ rawRead s a = memRead s a ∧
      memWrite s a v = { s with ram.wram := Memory.write s.ram.wram (n - 0xC000) v }) ∧
    (0xE000 ≤ n → n ≤ 0xFDFF → memRead s a = Memory.read s.ram.wram (n - 0xE000) ∧ rawRead s a = memRead s a ∧
      memWrite s a v = { s with ram.wram := Memory.write s.ram.wram (n - 0xE000) v }) ∧
    (0xFE00 ≤ n → n ≤ 0xFE9F →
      rawRead s a = Memory.read s.ram.oam (n - 0xFE00) ∧
      (oLock → memRead s a = 0xFF ∧ memWrite s a v = s) ∧
      (¬ oLock → memRead s a = rawRead s a ∧
        memWrite s a v = { s with ram.oam := Memory.write s.ram.oam (n - 0xFE00) v })) ∧
    (0xFEA0 ≤ n → n ≤ 0xFEFF → memRead s a = 0xFF ∧ rawRead s a = 0xFF ∧ memWrite s a v = s) ∧
    (0xFF00 ≤ n → n ≤ 0xFF7F → memRead s a = ioRead s a ∧ rawRead s a = ioRead s a ∧ memWrite s a v = ioWrite s a v) ∧
    (0xFF80 ≤ n → n ≤ 0xFFFE → memRead s a = Memory.read s.ram.hram (n - 0xFF80) ∧ rawRead s a = memRead s a ∧
      memWrite s a v = { s with ram.hram := Memory.write s.ram.hram (n - 0xFF80) v }) ∧
    (n = 0xFFFF → memRead s a = s.ie ∧ rawRead s a = s.ie ∧ memWrite s a v = { s with ie := v })

/-- Rules R134 and R135: what each I/O address reads as and what a write there does, but for the writes of LCDC and DMA,
which have statements of their own, with the mode numbers of rule R92 in STAT; every other address of the range reads as the sentinel and ignores a write. -/
def Obligations.IoRegistersReadAndWriteAsTheirTable : Prop :=
  (∀ s : State,
    let modeNumber : PpuMode → Nat := fun | .hBlank => 0 | .vBlank => 1 | .oamScan => 2 | .pixelTransfer => 3
    ioRead s 0xFF04 = hiByte s.timer.sys ∧ ioRead s 0xFF05 = s.timer.tima ∧ ioRead s 0xFF06 = s.timer.tma ∧
    (ioRead s 0xFF07).toNat = 0xF8 + s.timer.tac.toNat ∧ (ioRead s 0xFF0F).toNat = 0xE0 + s.ifReg.toNat ∧
    ioRead s 0xFF40 = s.lcd.lcdc ∧
    (ioRead s 0xFF41).toNat =
      0x80 + 8 * s.lcd.stat.toNat + (if s.lcd.ly = s.lcd.lyc then 4 else 0)
        + (if s.lcd.lcdc.getLsbD 7 then modeNumber s.ppu.mode else 0) ∧
    ioRead s 0xFF42 = s.lcd.scy ∧ ioRead s 0xFF43 = s.lcd.scx ∧ ioRead s 0xFF44 = s.lcd.ly ∧
    ioRead s 0xFF45 = s.lcd.lyc ∧ ioRead s 0xFF46 = s.lcd.dma ∧ ioRead s 0xFF47 = s.lcd.bgp ∧
    ioRead s 0xFF48 = s.lcd.obp0 ∧ ioRead s 0xFF49 = s.lcd.obp1 ∧ ioRead s 0xFF4A = s.lcd.wy ∧
    ioRead s 0xFF4B = s.lcd.wx) ∧
  (∀ (s : State) (v : Byte),
    ioWrite s 0xFF04 v = { s with timer.sys := 0 } ∧ ioWrite s 0xFF05 v = { s with timer.tima := v } ∧
    ioWrite s 0xFF06 v = { s with timer.tma := v } ∧
    ioWrite s 0xFF07 v = { s with timer.tac := BitVec.ofNat 3 v.toNat } ∧
    ioWrite s 0xFF0F v = { s with ifReg := BitVec.ofNat 5 v.toNat } ∧
    ioWrite s 0xFF41 v = { s with lcd.stat := BitVec.ofNat 4 (v.toNat / 8) } ∧
    ioWrite s 0xFF42 v = { s with lcd.scy := v } ∧ ioWrite s 0xFF43 v = { s with lcd.scx := v } ∧
    ioWrite s 0xFF44 v = s ∧ ioWrite s 0xFF45 v = { s with lcd.lyc := v } ∧
    ioWrite s 0xFF47 v = { s with lcd.bgp := v } ∧ ioWrite s 0xFF48 v = { s with lcd.obp0 := v } ∧
    ioWrite s 0xFF49 v = { s with lcd.obp1 := v } ∧ ioWrite s 0xFF4A v = { s with lcd.wy := v } ∧
    ioWrite s 0xFF4B v = { s with lcd.wx := v }) ∧
  ∀ (s : State) (a : Word) (v : Byte),
    a.toNat ∉ [0xFF04, 0xFF05, 0xFF06, 0xFF07, 0xFF0F, 0xFF40, 0xFF41, 0xFF42, 0xFF43, 0xFF44, 0xFF45, 0xFF46, 0xFF47,
      0xFF48, 0xFF49, 0xFF4A, 0xFF4B] → ioRead s a = 0xFF ∧ ioWrite s a v = s

/-- Rule R558: a write of LCDC stores all its bits; switching bit 7 off or on puts LY, the dot and WLC to 0 and the mode
to 0 or 2, with no request; while bit 7 is 0 the PPU does not move, so nothing of it changes and no request is raised, no
memory is locked, and STAT shows mode 0. -/
def Obligations.SwitchingTheLcdRestartsTheScanlineMachine : Prop :=
  (∀ (s : State) (v : Byte),
    let t := memWrite s 0xFF40 v
    let old := s.lcd.lcdc.getLsbD 7
    let new := v.getLsbD 7
    (old = new → t = { s with lcd.lcdc := v }) ∧
    (old = true → new = false → t =
      { s with lcd.lcdc := v, lcd.ly := 0, ppu.dot := 0, ppu.mode := .hBlank, ppu.wlc := 0 }) ∧
    (old = false → new = true → t =
      { s with lcd.lcdc := v, lcd.ly := 0, ppu.dot := 0, ppu.mode := .oamScan, ppu.wlc := 0 })) ∧
  ∀ (s : State) (c : Nat), s.lcd.lcdc.getLsbD 7 = false →
    ppuAdvance c s = s ∧ vramLocked s = false ∧ oamLocked s = false ∧ (ioRead s 0xFF41).toNat % 4 = 0

/-- Rule R180: a read returns the value of the latest write to the same byte, through whatever mirror reaches it (MBC2's
half-bytes with their upper bits set); a read of any other byte that the write does not govern is unchanged. -/
def Obligations.AReadReturnsTheLatestWriteToTheSameByte : Prop :=
  (∀ (s : State) (a b : Word) (v : Byte), region b = region a →
    ((∃ k, region a = .wram k) ∨ (∃ k, region a = .hram k) ∨ region a = .ie ∨
      ((∃ k, region a = .vram k) ∧ vramLocked s = false) ∨ ((∃ k, region a = .oam k) ∧ oamLocked s = false) →
      memRead (memWrite s a v) b = v) ∧
    (∀ (k : Nat) (c : Cartridge), region a = .cram → cramIndex s a.toNat = some k → cramIndex s b.toNat = some k →
      s.cart = some c →
      (memRead (memWrite s a v) b).toNat = if c.variant = .mbc2 then 0xF0 + v.toNat % 16 else v.toNat)) ∧
  ∀ (s : State) (a b : Word) (v : Byte), ¬ MayChange s a b → memRead (memWrite s a v) b = memRead s b

/-- Rule R145: a write of `v` to 0xFF46 stores it in DMA and copies 160 bytes from address 256·v on, read past the locks,
into OAM, lock or no lock; it changes nothing else. -/
def Obligations.AWriteOfDmaCopiesAPageIntoOam : Prop :=
  ∀ (s : State) (v : Byte),
    let written := { s with lcd.dma := v }
    let t := memWrite s 0xFF46 v
    t = { written with ram.oam := t.ram.oam } ∧
    (∀ i < 160, Memory.read t.ram.oam i = rawRead written (BitVec.ofNat 16 (v.toNat * 256 + i))) ∧
    ∀ i, 160 ≤ i → Memory.read t.ram.oam i = Memory.read s.ram.oam i

/-- Rules R156, R158, R159, R161, R162, R164, R165, R167, R168, R170, R171 and R173. With no cartridge the ROM windows read as
the sentinel and a control write does nothing. With one, each window shows the bank that the variant makes of its registers,
modulo the banks present; a control write sets the one register of its range, after the zero-to-one adjustment of MBC1, MBC2
and MBC3, and changes nothing else. So every bank-select write resolves, modulo the banks present, to the bank that the window
then shows; MBC5 can select bank 0. -/
def Obligations.ABankSelectResolvesModuloTheBanksPresent : Prop :=
  (∀ (s : State) (a : Word) (v : Byte), s.cart = none → a.toNat ≤ 0x7FFF → memRead s a = 0xFF ∧ memWrite s a v = s) ∧
  (∀ (s : State) (c : Cartridge) (a : Word), s.cart = some c →
    let shown := fun (bank off : Nat) => c.byteAt (bank % c.romBanks * 16384 + off)
    let m := s.mbc
    (a.toNat ≤ 0x3FFF →
      memRead s a = shown (if c.variant = .mbc1 ∧ m.bmode = true then m.bank2.toNat * 32 else 0) a.toNat) ∧
    (0x4000 ≤ a.toNat → a.toNat ≤ 0x7FFF →
      let bank := match c.variant with
        | .noBanking => 1
        | .mbc1 => m.bank2.toNat * 32 ||| m.romLo.toNat
        | .mbc2 => m.romLo.toNat
        | .mbc3 => m.romLo.toNat
        | .mbc5 => m.romHi.toNat * 256 + m.romLo.toNat
      memRead s a = shown bank (a.toNat - 0x4000))) ∧
  (∀ (s : State) (c : Cartridge) (w : Word) (v : Byte), s.cart = some c → w.toNat ≤ 0x7FFF →
    let n := w.toNat
    let m := s.mbc
    let enable := decide (v.toNat % 16 = 10)
    let adjusted := fun (k : Nat) => BitVec.ofNat 8 (if v.toNat % k = 0 then 1 else v.toNat % k)
    memWrite s w v = { s with mbc := match c.variant with
      | .noBanking => m
      | .mbc1 =>
        if n ≤ 0x1FFF then { m with ramEn := enable }
        else if n ≤ 0x3FFF then { m with romLo := adjusted 32 }
        else if n ≤ 0x5FFF then { m with bank2 := BitVec.ofNat 4 (v.toNat % 4) }
        else { m with bmode := decide (v.toNat % 2 = 1) }
      | .mbc2 =>
        if 0x4000 ≤ n then m
        else if n / 256 % 2 = 1 then { m with romLo := adjusted 16 }
        else { m with ramEn := enable }
      | .mbc3 =>
        if n ≤ 0x1FFF then { m with ramEn := enable }
        else if n ≤ 0x3FFF then { m with romLo := adjusted 128 }
        else if n ≤ 0x5FFF then { m with bank2 := BitVec.ofNat 4 v.toNat }
        else m
      | .mbc5 =>
        if n ≤ 0x1FFF then { m with ramEn := enable }
        else if n ≤ 0x2FFF then { m with romLo := v }
        else if n ≤ 0x3FFF then { m with romHi := BitVec.ofNat 1 v.toNat }
        else if n ≤ 0x5FFF then { m with bank2 := BitVec.ofNat 4 v.toNat }
        else m }) ∧
  ∀ (s : State) (c : Cartridge) (w a : Word) (v : Byte), s.cart = some c → w.toNat ≤ 0x7FFF →
    let shown := fun (bank off : Nat) => memRead (memWrite s w v) a = c.byteAt (bank % c.romBanks * 16384 + off)
    let n := w.toNat
    let adjusted := fun (k : Nat) => if v.toNat % k = 0 then 1 else v.toNat % k
    (a.toNat ≤ 0x3FFF →
      let low := fun (bank : Nat) => shown bank a.toNat
      (c.variant ≠ .mbc1 → low 0) ∧
      (c.variant = .mbc1 → 0x4000 ≤ n → n ≤ 0x5FFF → low (if s.mbc.bmode then v.toNat % 4 * 32 else 0)) ∧
      (c.variant = .mbc1 → 0x6000 ≤ n → low (if v.toNat % 2 = 1 then s.mbc.bank2.toNat * 32 else 0))) ∧
    (0x4000 ≤ a.toNat → a.toNat ≤ 0x7FFF →
      let high := fun (bank : Nat) => shown bank (a.toNat - 0x4000)
      (c.variant = .noBanking → high 1) ∧
      (c.variant = .mbc1 → 0x2000 ≤ n → n ≤ 0x3FFF → high (s.mbc.bank2.toNat * 32 + adjusted 32)) ∧
      (c.variant = .mbc1 → 0x4000 ≤ n → n ≤ 0x5FFF → high (v.toNat % 4 * 32 ||| s.mbc.romLo.toNat)) ∧
      (c.variant = .mbc2 → n ≤ 0x3FFF → n / 256 % 2 = 1 → high (adjusted 16)) ∧
      (c.variant = .mbc3 → 0x2000 ≤ n → n ≤ 0x3FFF → high (adjusted 128)) ∧
      (c.variant = .mbc5 → 0x2000 ≤ n → n ≤ 0x2FFF → high (s.mbc.romHi.toNat * 256 + v.toNat)) ∧
      (c.variant = .mbc5 → 0x3000 ≤ n → n ≤ 0x3FFF → high (v.toNat % 2 * 256 + s.mbc.romLo.toNat)))

/-- Rules R157, R159, R161, R163, R164, R166, R167, R169, R170 and R172: cartridge RAM answers only where there is a
cartridge with RAM and, on a variant with a RAM-enable register, after a write whose low nibble is 0xA (and, on MBC3,
with no clock register selected); else a read gives the sentinel and a write is dropped. Where it answers, the byte is that
of the variant's bank, modulo the banks present, and MBC2's is one of 512 half-bytes with its upper bits read as 1. -/
def Obligations.CartridgeRamAnswersOnlyWhenEnabled : Prop :=
  ∀ (s : State) (a : Word) (v : Byte), 0xA000 ≤ a.toNat → a.toNat ≤ 0xBFFF →
    (s.cart = none → memRead s a = 0xFF ∧ memWrite s a v = s) ∧
    ∀ c : Cartridge, s.cart = some c →
      (c.ramSize = 0 → memRead s a = 0xFF ∧ memWrite s a v = s) ∧
      (c.variant ≠ .noBanking → s.mbc.ramEn = false → memRead s a = 0xFF ∧ memWrite s a v = s) ∧
      (c.variant = .mbc3 → s.mbc.bank2.getLsbD 3 = true → memRead s a = 0xFF ∧ memWrite s a v = s) ∧
      (c.ramSize ≠ 0 → (c.variant = .noBanking ∨ (s.mbc.ramEn = true ∧ (c.variant = .mbc3 → s.mbc.bank2.toNat < 8))) →
        let bank := match c.variant with
          | .noBanking => 0
          | .mbc1 => if s.mbc.bmode then s.mbc.bank2.toNat else 0
          | .mbc2 => 0
          | .mbc3 => s.mbc.bank2.toNat
          | .mbc5 => s.mbc.bank2.toNat
        let k :=
          if c.variant = .mbc2 then a.toNat % 512
          else (bank % c.ramBanks * 8192 + (a.toNat - 0xA000)) % c.ramSize
        let held := (Memory.read s.ram.cram k).toNat
        let stored := if c.variant = .mbc2 then BitVec.ofNat 8 (v.toNat % 16) else v
        cramIndex s a.toNat = some k ∧
        (memRead s a).toNat = (if c.variant = .mbc2 then 0xF0 + held % 16 else held) ∧
        memWrite s a v = { s with ram.cram := Memory.write s.ram.cram k stored }) ∧
      (c.variant ≠ .noBanking → ∀ (w : Word) (e : Byte),
        (if c.variant = .mbc2 then w.toNat ≤ 0x3FFF ∧ w.toNat / 256 % 2 = 0 else w.toNat ≤ 0x1FFF) →
        (memWrite s w e).mbc.ramEn = decide (e.toNat % 16 = 10))

/-! ## The devices -/

/-- Rules R540 and R541: SYS counts cycles modulo 65536; with the timer enabled TIMA counts the multiples of the period
that SYS passes, and each time it would pass 0xFF it goes on from TMA and the timer request is raised; with it disabled
TIMA and IF are left. -/
def Obligations.TheTimerCountsPeriodsAndReloadsOnOverflow : Prop :=
  ∀ (n : Nat) (s : State),
    let t := timerAdvance n s
    let sys := s.timer.sys.toNat
    let period := match s.timer.tac.toNat % 4 with | 0 => 1024 | 1 => 16 | 2 => 64 | _ => 256
    let count := s.timer.tima.toNat + ((sys + n) / period - sys / period)
    t = { s with timer := t.timer, ifReg := t.ifReg } ∧
    t.timer.sys.toNat = (sys + n) % 65536 ∧ t.timer.tma = s.timer.tma ∧ t.timer.tac = s.timer.tac ∧
    (s.timer.tac.getLsbD 2 = false → t.timer.tima = s.timer.tima ∧ t.ifReg = s.ifReg) ∧
    (s.timer.tac.getLsbD 2 = true → count < 256 → t.timer.tima.toNat = count ∧ t.ifReg = s.ifReg) ∧
    (s.timer.tac.getLsbD 2 = true → 256 ≤ count →
      t.timer.tima.toNat = s.timer.tma.toNat + (count - 256) % (256 - s.timer.tma.toNat) ∧ t.ifReg = s.ifReg ||| 4)

/-- Rules R550, R551 and R557: from the start of a frame, LY, the dot and the mode after any number of dots are those of
the 456-dot lines and 154-line frames, so that after 70224 dots the state machine is back where it began, having shown
each mode once per line; the frame is completed when line 144 begins. -/
def Obligations.AFrameIs154LinesOf456Dots : Prop :=
  ∀ (s : State) (k : Nat),
    s.lcd.lcdc.getLsbD 7 = true → s.lcd.ly = 0 → s.ppu.dot = 0 → s.ppu.mode = .oamScan → s.ppu.redrawPending = false →
    let t := ppuAdvance k s
    t.lcd.ly.toNat = k / 456 % 154 ∧ t.ppu.dot = k % 456 ∧ t.ppu.mode = modeAt (k / 456 % 154) (k % 456) ∧
    (t.ppu.redrawPending = true ↔ 144 * 456 ≤ k) ∧ t.lcd.lcdc = s.lcd.lcdc

/-- Rules R552 to R556: the requests of one dot with the LCD on, in a state that the scanline invariants allow: the
v-blank request on entry to line 144, with the frame copied and the redraw flag set; the LCD-status request on entry to
mode 0, 1 or 2 and when the new LY equals LYC, each if STAT enables it; no other request; and the mode entered. -/
def Obligations.ADotRaisesExactlyTheEnabledRequests : Prop :=
  ∀ s : State, PpuOk s → s.lcd.lcdc.getLsbD 7 = true →
    let t := ppuDot s
    let ly := s.lcd.ly.toNat
    let last := decide (s.ppu.dot = 455)
    let vBlank := last && decide (ly = 143)
    let hBlank := decide (s.ppu.dot = 251) && decide (ly < 144)
    let oamScan := last && (decide (ly < 143) || decide (ly = 153))
    let match' := last && decide ((ly + 1) % 154 = s.lcd.lyc.toNat)
    t.ifReg.getLsbD 0 = (s.ifReg.getLsbD 0 || vBlank) ∧
    t.ifReg.getLsbD 1 =
      (s.ifReg.getLsbD 1 || (hBlank && s.lcd.stat.getLsbD 0) || (vBlank && s.lcd.stat.getLsbD 1) ||
        (oamScan && s.lcd.stat.getLsbD 2) || (match' && s.lcd.stat.getLsbD 3)) ∧
    (∀ j, 2 ≤ j → t.ifReg.getLsbD j = s.ifReg.getLsbD j) ∧
    t.ppu.redrawPending = (s.ppu.redrawPending || vBlank) ∧
    t.ppu.front = (if vBlank then s.ppu.fb else s.ppu.front) ∧
    (hBlank = true → t.ppu.mode = .hBlank) ∧
    (vBlank = true → t.ppu.mode = .vBlank ∧ t.lcd.ly = 144) ∧
    (oamScan = true → t.ppu.mode = .oamScan)

/-- Rules R560 to R564 and R569: the background's colour index and shade at column x of a line are those that the tile data
and the palette give for the background or, where it covers x, the window; with the background off both are 0. With sprites
off, rendering the line puts that shade in the framebuffer. Sprites or not, rendering changes no other line and nothing but
the framebuffer and WLC, which counts the lines with the window. -/
def Obligations.ALineShowsBackgroundAndWindowTiles : Prop :=
  ∀ (s : State) (ly x : Nat) (hl : ly < 144) (hx : x < 160),
    let bit := fun i => s.lcd.lcdc.getLsbD i
    let vram := fun a => Memory.read s.ram.vram (a - 0x8000)
    let onLine := bit 0 && bit 5 && decide (s.lcd.wy.toNat ≤ ly) && decide (s.lcd.wx.toNat ≤ 166)
    let window := onLine && decide (s.lcd.wx.toNat ≤ x + 7)
    let px := if window then x + 7 - s.lcd.wx.toNat else (x + s.lcd.scx.toNat) % 256
    let py := if window then s.ppu.wlc else (ly + s.lcd.scy.toNat) % 256
    let map := if (if window then bit 6 else bit 3) then 0x9C00 else 0x9800
    let tile := (vram (map + 32 * (py / 8) + px / 8)).toNat
    let base := if bit 4 then 0x8000 + 16 * tile else if tile < 128 then 0x9000 + 16 * tile else 0x8000 + 16 * tile
    let lo := (vram (base + 2 * (py % 8))).getLsbD (7 - px % 8)
    let hi := (vram (base + 2 * (py % 8) + 1)).getLsbD (7 - px % 8)
    let colour := 2 * hi.toNat + lo.toNat
    let t := renderLine s ly
    (bgIndex s ly x).toNat = (if bit 0 then colour else 0) ∧
    (bgShade s ly x).toNat = (if bit 0 then s.lcd.bgp.toNat / 4 ^ colour % 4 else 0) ∧
    (bit 1 = false → (t.ppu.fb[ly]'hl)[x]'hx = bgShade s ly x) ∧
    (∀ (y : Nat) (hy : y < 144), y ≠ ly → t.ppu.fb[y]'hy = s.ppu.fb[y]'hy) ∧
    t.ppu.wlc = (if onLine then s.ppu.wlc + 1 else s.ppu.wlc) ∧
    t = { s with ppu.fb := t.ppu.fb, ppu.wlc := t.ppu.wlc }

/-- Rules R565, R567 and R568: of the forty OAM entries the first ten on a line are considered, in OAM order; among those with an
opaque pixel at x the one with the smallest X wins, the earliest on a tie, and only it can replace the background's
shade: it does not where its attribute puts it behind a background colour other than 0. -/
def Obligations.TheLeftmostEarliestOpaqueSpriteWins : Prop :=
  ∀ (s : State) (ly x : Nat) (hl : ly < 144) (hx : x < 160),
    let sprites := spritesOnLine s ly
    let shade := ((renderLine s ly).ppu.fb[ly]'hl)[x]'hx
    let opaque' := fun sp => (spritePixel s ly x sp).isSome = true
    let entry := spriteAt s.ram.oam
    let height := if s.lcd.lcdc.getLsbD 2 then 16 else 8
    let onLine := fun (i : Nat) => decide ((entry i).y ≤ ly + 16) && decide (ly + 16 < (entry i).y + height)
    sprites.length ≤ 10 ∧
    sprites.Sublist ((List.range 40).map entry) ∧
    (∀ sp ∈ sprites, s.lcd.lcdc.getLsbD 1 = true ∧ ∃ i < 40, sp = entry i ∧ onLine i = true) ∧
    (∀ i < 40, s.lcd.lcdc.getLsbD 1 = true → onLine i = true → ((List.range i).filter onLine).length < 10 →
      entry i ∈ sprites) ∧
    ((∀ sp ∈ sprites, ¬ opaque' sp) → shade = bgShade s ly x) ∧
    ∀ before sp after, sprites = before ++ sp :: after →
      (∀ q ∈ before, opaque' q → sp.x < q.x) → (∀ q ∈ after, opaque' q → sp.x ≤ q.x) →
      ∀ ci, spritePixel s ly x sp = some ci →
        let palette := if sp.attr.getLsbD 4 then s.lcd.obp1 else s.lcd.obp0
        shade.toNat =
          if sp.attr.getLsbD 7 = true ∧ bgIndex s ly x ≠ 0 then (bgShade s ly x).toNat
          else palette.toNat / 4 ^ ci.toNat % 4

/-- Rule R566, on an entry laid out as rule R95 says: an entry on the line gives at x, where it covers x, the colour index of
its tile's pixel, with the column and the row from its X and Y, flipped as its attributes ask, and, with tall sprites, the
tile of the pair that holds the row; index 0 is transparent, and an entry that does not cover x gives nothing. -/
def Obligations.ASpritePixelFollowsItsOamEntry : Prop :=
  (∀ (oam : Memory) (i : Nat),
    let byte := fun k => Memory.read oam (4 * i + k)
    let sp := spriteAt oam i
    sp.y = (byte 0).toNat ∧ sp.x = (byte 1).toNat ∧ sp.tile = byte 2 ∧ sp.attr = byte 3) ∧
  ∀ (s : State) (ly x : Nat) (sp : Sprite),
    let height := if s.lcd.lcdc.getLsbD 2 then 16 else 8
    (¬ (sp.x ≤ x + 8 ∧ x + 8 < sp.x + 8) → spritePixel s ly x sp = none) ∧
    (sp.x ≤ x + 8 → x + 8 < sp.x + 8 → sp.y ≤ ly + 16 → ly + 16 < sp.y + height →
      let col := if sp.attr.getLsbD 5 then 7 - (x + 8 - sp.x) else x + 8 - sp.x
      let row := if sp.attr.getLsbD 6 then height - 1 - (ly + 16 - sp.y) else ly + 16 - sp.y
      let tile := if s.lcd.lcdc.getLsbD 2 then sp.tile.toNat / 2 * 2 + row / 8 else sp.tile.toNat
      let lo := (Memory.read s.ram.vram (16 * tile + 2 * (row % 8))).getLsbD (7 - col)
      let hi := (Memory.read s.ram.vram (16 * tile + 2 * (row % 8) + 1)).getLsbD (7 - col)
      let index := 2 * hi.toNat + lo.toNat
      (spritePixel s ly x sp).map BitVec.toNat = if index = 0 then none else some index)

/-! ## The host's calls -/

/-- Rules R647, R648 and R649: the display buffer is 160×144×4 bytes, row by row, each pixel's shade of the completed frame
through the palette, red first; the redraw query answers the flag; before any reset both, and the run call, are refused. -/
def Obligations.TheDisplayBufferShowsTheCompletedFrame : Prop :=
  ∀ s : State,
    (s.driver = .uninitialized →
      displayBuffer s = .refused .driverUninitialized ∧ shouldRedrawDisplay s = .refused .driverUninitialized ∧
      runUntilRedraw s = .refused .driverUninitialized) ∧
    (s.driver ≠ .uninitialized →
      shouldRedrawDisplay s = .next s.ppu.redrawPending ∧
      ∃ bytes, displayBuffer s = .next bytes ∧ bytes.length = 92160 ∧
        ∀ (y x : Nat) (hy : y < 144) (hx : x < 160),
          let colour := s.params.paletteRgba[((s.ppu.front[y]'hy)[x]'hx).toNat]'((s.ppu.front[y]'hy)[x]'hx).isLt
          bytes[4 * (160 * y + x)]? = some colour.red ∧ bytes[4 * (160 * y + x) + 1]? = some colour.green ∧
          bytes[4 * (160 * y + x) + 2]? = some colour.blue ∧ bytes[4 * (160 * y + x) + 3]? = some colour.alpha)

/-- Rule R646: once the driver is loaded, `run_until_redraw` clears the flag and runs iterations until the flag is set, the
ceiling is reached or the fatal condition is raised; its answer is the flag it leaves, false only at the ceiling. Where a
halted tick is no longer than an instruction, it answers true within the first 24 dots of line 144. It answers false on a
stopped machine, and on a halted one with no source enabled and the LCD off; on one with the LCD at the start of a frame,
`HALT_TICK` 1 and a ceiling of at least 65664, it answers true after exactly 144 × 456 cycles. -/
def Obligations.RunUntilRedrawStopsAtTheNextVBlank : Prop :=
  ∀ s : State, s.driver ≠ .uninitialized →
    let entry := { s with driver := .running, ppu.redrawPending := false }
    let answers := fun (r : RunResult) (t : State) => runUntilRedraw s = .next (t, r)
    let quiet := s.run = .halted ∧ s.ie.toNat % 32 = 0
    (∃ r t, answers r t ∧ t.driver = .running) ∧
    (∀ ready t, answers (.frameReady ready) t →
      t.ppu.redrawPending = ready ∧
      ∃ n ≤ s.params.iterCeiling, Iterates n entry t ∧ (ready = false → n = s.params.iterCeiling)) ∧
    (∀ opcode pc t, answers (.raised opcode pc) t →
      t.run = .faulted opcode pc ∧ t.ppu.redrawPending = false ∧
      ∃ n < s.params.iterCeiling, ∃ u, Iterates n entry u ∧
        ((step u = .next t ∧ t.report = .illegalInstruction opcode pc) ∨
          (t = u ∧ step u = .fault (.illegalInstruction opcode pc)))) ∧
    (s.params.haltTick ≤ 24 → ∀ t, answers (.frameReady true) t →
      t.lcd.ly = 144 ∧ t.ppu.dot < 24 ∧ t.ppu.mode = .vBlank ∧ t.ifReg.getLsbD 0 = true) ∧
    (s.run = .stopped ∨ (quiet ∧ s.lcd.lcdc.getLsbD 7 = false) → ∃ t, answers (.frameReady false) t) ∧
    (quiet → s.params.haltTick = 1 → 65664 ≤ s.params.iterCeiling →
      s.lcd.lcdc.getLsbD 7 = true → s.lcd.ly = 0 → s.ppu.dot = 0 → s.ppu.mode = .oamScan →
      ∃ t, answers (.frameReady true) t ∧ t.cycles = s.cycles + 65664 ∧ t.lcd.ly = 144 ∧ t.ppu.dot = 0 ∧
        t.ppu.mode = .vBlank ∧ t.ifReg.getLsbD 0 = true)
end

