-- ==== Sys2Proof/Laws/Cells.lean ====
section
/-! SUPPORT. The laws of a `Memory`: read after write, the canonical form kept by every operation, and the form is
canonical: equal reads make equal memories. -/

namespace Sys2Proof.Machine

@[simp] theorem Memory.read_nil (k : Nat) : Memory.read [] k = unlistedByte := rfl

@[simp] theorem Memory.wf_nil : Memory.wf [] := ⟨List.Pairwise.nil, by simp⟩

@[simp] theorem Memory.below_nil (n : Nat) : Memory.below [] n := by simp [Memory.below]

/-! ## Erase and insert -/

theorem Memory.read_erase (m : Memory) (k j : Nat) :
    (m.erase k).read j = if j = k then unlistedByte else m.read j := by
  induction m with
  | nil => simp [Memory.erase]
  | cons c rest ih =>
    obtain ⟨i, w⟩ := c
    unfold Memory.erase at ih ⊢
    rw [List.filter_cons]
    by_cases hik : i = k
    · subst hik
      simp only [bne_self_eq_false, Bool.false_eq_true, if_false, ih, Memory.read]
      split
      · rfl
      · rw [if_neg (by omega)]
    · simp only [bne_iff_ne, ne_eq, hik, not_false_eq_true, if_true, Memory.read, ih]
      by_cases hij : i = j
      · rw [if_pos hij, if_pos hij, if_neg (by omega)]
      · rw [if_neg hij, if_neg hij]

theorem Memory.mem_erase {m : Memory} {k : Nat} {c : Host.Cell} : c ∈ m.erase k ↔ c ∈ m ∧ c.1 ≠ k := by
  simp [Memory.erase]

theorem Memory.read_insert (m : Memory) (k j : Nat) (v : Byte) (hk : ∀ c ∈ m, c.1 ≠ k) :
    (m.insert k v).read j = if j = k then v else m.read j := by
  induction m with
  | nil => simp [Memory.insert, Memory.read, eq_comm]
  | cons c rest ih =>
    obtain ⟨i, w⟩ := c
    have hi : i ≠ k := hk (i, w) (by simp)
    have ih := ih (fun c hc => hk c (by simp [hc]))
    unfold Memory.insert
    split
    · simp [Memory.read, eq_comm]
    · simp only [Memory.read, ih]
      by_cases hij : i = j
      · rw [if_pos hij, if_pos hij, if_neg (by omega)]
      · rw [if_neg hij, if_neg hij]

theorem Memory.mem_insert {m : Memory} {k : Nat} {v : Byte} {c : Host.Cell} :
    c ∈ m.insert k v ↔ c = (k, v) ∨ c ∈ m := by
  induction m with
  | nil => simp [Memory.insert]
  | cons d rest ih =>
    obtain ⟨i, w⟩ := d
    unfold Memory.insert
    split
    · simp
    · simp only [List.mem_cons, ih]
      tauto

/-! ## Write -/

/-- A read after a write, of any memory, well formed or not. -/
theorem Memory.read_write (m : Memory) (k j : Nat) (v : Byte) :
    (m.write k v).read j = if j = k then v else m.read j := by
  unfold Memory.write
  split
  · rename_i h
    rw [Memory.read_erase, h]
  · rw [Memory.read_insert _ _ _ _ (fun c hc => (Memory.mem_erase.mp hc).2), Memory.read_erase]
    split <;> rfl

@[simp] theorem Memory.read_write_self (m : Memory) (k : Nat) (v : Byte) : (m.write k v).read k = v := by
  rw [Memory.read_write, if_pos rfl]

theorem Memory.read_write_ne (m : Memory) {k j : Nat} (v : Byte) (h : j ≠ k) : (m.write k v).read j = m.read j := by
  rw [Memory.read_write, if_neg h]

theorem Memory.wf_erase {m : Memory} (h : m.wf) (k : Nat) : (m.erase k).wf :=
  ⟨h.1.sublist List.filter_sublist, fun c hc => h.2 c (Memory.mem_erase.mp hc).1⟩

theorem Memory.wf_insert {m : Memory} (h : m.wf) {k : Nat} {v : Byte} (hk : ∀ c ∈ m, c.1 ≠ k) (hv : v ≠ unlistedByte) :
    (m.insert k v).wf := by
  refine ⟨?_, fun c hc => ?_⟩
  · induction m with
    | nil => simp [Memory.insert]
    | cons c rest ih =>
      obtain ⟨i, w⟩ := c
      have hi : i ≠ k := hk (i, w) (by simp)
      have hp := List.pairwise_cons.mp h.1
      unfold Memory.insert
      split
      · rename_i hlt
        refine List.pairwise_cons.mpr ⟨fun c hc => ?_, h.1⟩
        rcases List.mem_cons.mp hc with rfl | hc
        · exact hlt
        · exact Nat.lt_trans hlt (hp.1 c hc)
      · rename_i hlt
        refine List.pairwise_cons.mpr ⟨fun c hc => ?_, ?_⟩
        · rcases Memory.mem_insert.mp hc with rfl | hc
          · exact Nat.lt_of_le_of_ne (Nat.not_lt.mp hlt) hi
          · exact hp.1 c hc
        · exact ih ⟨hp.2, fun c hc => h.2 c (by simp [hc])⟩ (fun c hc => hk c (by simp [hc]))
  · rcases Memory.mem_insert.mp hc with rfl | hc
    · exact hv
    · exact h.2 c hc

/-- A write keeps the canonical form. -/
theorem Memory.wf_write {m : Memory} (h : m.wf) (k : Nat) (v : Byte) : (m.write k v).wf := by
  unfold Memory.write
  split
  · exact Memory.wf_erase h k
  · rename_i hv
    exact Memory.wf_insert (Memory.wf_erase h k) (fun c hc => (Memory.mem_erase.mp hc).2) hv

/-- A write inside the bound keeps the bound. -/
theorem Memory.below_write {m : Memory} {n k : Nat} (h : m.below n) (hk : k < n) (v : Byte) : (m.write k v).below n := by
  unfold Memory.write
  intro c hc
  split at hc
  · exact h c (Memory.mem_erase.mp hc).1
  · rcases Memory.mem_insert.mp hc with rfl | hc
    · exact hk
    · exact h c (Memory.mem_erase.mp hc).1

/-! ## The form is canonical -/

theorem Memory.read_eq_unlisted {m : Memory} {j : Nat} (h : ∀ c ∈ m, c.1 ≠ j) : m.read j = unlistedByte := by
  induction m with
  | nil => rfl
  | cons c rest ih =>
    obtain ⟨i, w⟩ := c
    rw [Memory.read, if_neg (h (i, w) (by simp)), ih (fun c hc => h c (by simp [hc]))]

theorem Memory.read_of_mem {m : Memory} (h : m.wf) {c : Host.Cell} (hc : c ∈ m) : m.read c.1 = c.2 := by
  induction m with
  | nil => cases hc
  | cons d rest ih =>
    obtain ⟨i, w⟩ := d
    have hp := List.pairwise_cons.mp h.1
    rcases List.mem_cons.mp hc with rfl | hc
    · simp [Memory.read]
    · have hne : i ≠ c.1 := Nat.ne_of_lt (hp.1 c hc)
      rw [Memory.read, if_neg hne]
      exact ih ⟨hp.2, fun c hc => h.2 c (by simp [hc])⟩ hc

theorem Memory.mem_of_read {m : Memory} {j : Nat} (h : m.read j ≠ unlistedByte) : (j, m.read j) ∈ m := by
  induction m with
  | nil => exact absurd rfl h
  | cons c rest ih =>
    obtain ⟨i, w⟩ := c
    by_cases hij : i = j
    · subst hij
      simp [Memory.read]
    · rw [Memory.read, if_neg hij] at h ⊢
      exact List.mem_cons_of_mem _ (ih h)

/-! ## Images -/

theorem Memory.ofBytes_index {k : Nat} {bytes : List Byte} {c : Host.Cell} (h : c ∈ Memory.ofBytes k bytes) :
    k ≤ c.1 ∧ c.1 < k + bytes.length := by
  induction bytes generalizing k with
  | nil => cases h
  | cons v rest ih =>
    unfold Memory.ofBytes at h
    simp only [List.length_cons]
    split at h
    · have := ih h
      omega
    · rcases List.mem_cons.mp h with rfl | h
      · simp
      · have := ih h
        omega

theorem Memory.wf_ofBytes (k : Nat) (bytes : List Byte) : (Memory.ofBytes k bytes).wf := by
  induction bytes generalizing k with
  | nil => exact Memory.wf_nil
  | cons v rest ih =>
    unfold Memory.ofBytes
    split
    · exact ih (k + 1)
    · rename_i hv
      refine ⟨List.pairwise_cons.mpr ⟨fun c hc => ?_, (ih (k + 1)).1⟩, fun c hc => ?_⟩
      · have := Memory.ofBytes_index hc
        simp only
        omega
      · rcases List.mem_cons.mp hc with rfl | hc
        · exact hv
        · exact (ih (k + 1)).2 c hc

theorem Memory.read_ofBytes (k j : Nat) (bytes : List Byte) :
    (Memory.ofBytes k bytes).read (k + j) = bytes.getD j unlistedByte := by
  induction bytes generalizing k j with
  | nil => simp [Memory.ofBytes]
  | cons v rest ih =>
    unfold Memory.ofBytes
    cases j with
    | zero =>
      split
      · rename_i hv
        rw [Memory.read_eq_unlisted]
        · simp [hv]
        · intro c hc
          have := Memory.ofBytes_index hc
          omega
      · simp [Memory.read]
    | succ j =>
      have e : k + (j + 1) = (k + 1) + j := by omega
      split
      · rw [e, ih]
        simp
      · rw [Memory.read, if_neg (by omega), e, ih]
        simp

end Sys2Proof.Machine
end

