-- ==== Sys2Proof/Laws/State.lean ====
section
/-! SUPPORT. One lemma per field and update of `State`, each true by definition, and the get-after-set lemmas of the
register file. -/

namespace Sys2Proof.Machine

/-! ## The register file -/


theorem Regs.get_set (g : Regs) (r q : Reg8) (v : Byte) : (g.set r v).get q = if q = r then v else g.get q := by
  cases r <;> cases q <;> rfl

@[simp] theorem Regs.get_set_self (g : Regs) (r : Reg8) (v : Byte) : (g.set r v).get r = v := by cases r <;> rfl

theorem Regs.get_set_ne (g : Regs) {r q : Reg8} (v : Byte) (h : q ≠ r) : (g.set r v).get q = g.get q := by
  rw [Regs.get_set, if_neg h]

@[simp] theorem Regs.set_f (g : Regs) (r : Reg8) (v : Byte) : (g.set r v).f = g.f := by cases r <;> rfl
@[simp] theorem Regs.set_sp (g : Regs) (r : Reg8) (v : Byte) : (g.set r v).sp = g.sp := by cases r <;> rfl
@[simp] theorem Regs.set_pc (g : Regs) (r : Reg8) (v : Byte) : (g.set r v).pc = g.pc := by cases r <;> rfl
@[simp] theorem Regs.set16_f (g : Regs) (rr : Reg16) (v : Word) : (g.set16 rr v).f = g.f := by cases rr <;> rfl
@[simp] theorem Regs.set16_a (g : Regs) (rr : Reg16) (v : Word) : (g.set16 rr v).a = g.a := by cases rr <;> rfl
@[simp] theorem Regs.set16_pc (g : Regs) (rr : Reg16) (v : Word) : (g.set16 rr v).pc = g.pc := by cases rr <;> rfl

theorem wordOf_toNat (h l : Byte) : (wordOf h l).toNat = h.toNat * 256 + l.toNat := by
  have e : (wordOf h l).toNat = (h ++ l).toNat := rfl
  have := l.isLt
  rw [e, BitVec.toNat_append, ← Nat.shiftLeft_add_eq_or_of_lt l.isLt]
  omega

theorem hiByte_toNat (w : Word) : (hiByte w).toNat = w.toNat / 256 := by
  have e : (hiByte w).toNat = (w.extractLsb' 8 8).toNat := rfl
  have := w.isLt
  rw [e, BitVec.extractLsb'_toNat, Nat.shiftRight_eq_div_pow]
  omega

theorem loByte_toNat (w : Word) : (loByte w).toNat = w.toNat % 256 := by
  have e : (loByte w).toNat = (w.extractLsb' 0 8).toNat := rfl
  rw [e, BitVec.extractLsb'_toNat, Nat.shiftRight_zero]

@[simp] theorem hiByte_wordOf (h l : Byte) : hiByte (wordOf h l) = h := by
  apply BitVec.eq_of_toNat_eq
  rw [hiByte_toNat, wordOf_toNat]
  omega

@[simp] theorem loByte_wordOf (h l : Byte) : loByte (wordOf h l) = l := by
  apply BitVec.eq_of_toNat_eq
  rw [loByte_toNat, wordOf_toNat]
  omega

/-- A word is its two halves. -/
@[simp] theorem wordOf_hiByte_loByte (w : Word) : wordOf (hiByte w) (loByte w) = w := by
  apply BitVec.eq_of_toNat_eq
  rw [wordOf_toNat, hiByte_toNat, loByte_toNat]
  omega

@[simp] theorem Regs.get16_set16_self (g : Regs) (rr : Reg16) (v : Word) : (g.set16 rr v).get16 rr = v := by
  cases rr <;> simp [Regs.set16, Regs.get16]

@[simp] theorem State.r8_setR8_self (s : State) (r : Reg8) (v : Byte) : (s.setR8 r v).r8 r = v := Regs.get_set_self _ _ _

@[simp] theorem State.r16_setR16_self (s : State) (rr : Reg16) (v : Word) : (s.setR16 rr v).r16 rr = v :=
  Regs.get16_set16_self _ _ _

/-! ## Fields and updates -/


@[simp] theorem State.withRegs_params (s : State) (g : Regs) : (s.withRegs g).params = s.params := rfl
@[simp] theorem State.withRegs_regs (s : State) (g : Regs) : (s.withRegs g).regs = g := rfl
@[simp] theorem State.withRegs_ime (s : State) (g : Regs) : (s.withRegs g).ime = s.ime := rfl
@[simp] theorem State.withRegs_eiPending (s : State) (g : Regs) : (s.withRegs g).eiPending = s.eiPending := rfl
@[simp] theorem State.withRegs_run (s : State) (g : Regs) : (s.withRegs g).run = s.run := rfl
@[simp] theorem State.withRegs_cycles (s : State) (g : Regs) : (s.withRegs g).cycles = s.cycles := rfl
@[simp] theorem State.withRegs_report (s : State) (g : Regs) : (s.withRegs g).report = s.report := rfl
@[simp] theorem State.withRegs_ifReg (s : State) (g : Regs) : (s.withRegs g).ifReg = s.ifReg := rfl
@[simp] theorem State.withRegs_ie (s : State) (g : Regs) : (s.withRegs g).ie = s.ie := rfl
@[simp] theorem State.withRegs_timer (s : State) (g : Regs) : (s.withRegs g).timer = s.timer := rfl
@[simp] theorem State.withRegs_lcd (s : State) (g : Regs) : (s.withRegs g).lcd = s.lcd := rfl
@[simp] theorem State.withRegs_ppu (s : State) (g : Regs) : (s.withRegs g).ppu = s.ppu := rfl
@[simp] theorem State.withRegs_ram (s : State) (g : Regs) : (s.withRegs g).ram = s.ram := rfl
@[simp] theorem State.withRegs_cart (s : State) (g : Regs) : (s.withRegs g).cart = s.cart := rfl
@[simp] theorem State.withRegs_mbc (s : State) (g : Regs) : (s.withRegs g).mbc = s.mbc := rfl
@[simp] theorem State.withRegs_driver (s : State) (g : Regs) : (s.withRegs g).driver = s.driver := rfl

@[simp] theorem State.setR8_params (s : State) (r : Reg8) (v : Byte) : (s.setR8 r v).params = s.params := rfl
@[simp] theorem State.setR8_regs (s : State) (r : Reg8) (v : Byte) : (s.setR8 r v).regs = s.regs.set r v := rfl
@[simp] theorem State.setR8_ime (s : State) (r : Reg8) (v : Byte) : (s.setR8 r v).ime = s.ime := rfl
@[simp] theorem State.setR8_eiPending (s : State) (r : Reg8) (v : Byte) : (s.setR8 r v).eiPending = s.eiPending := rfl
@[simp] theorem State.setR8_run (s : State) (r : Reg8) (v : Byte) : (s.setR8 r v).run = s.run := rfl
@[simp] theorem State.setR8_cycles (s : State) (r : Reg8) (v : Byte) : (s.setR8 r v).cycles = s.cycles := rfl
@[simp] theorem State.setR8_report (s : State) (r : Reg8) (v : Byte) : (s.setR8 r v).report = s.report := rfl
@[simp] theorem State.setR8_ifReg (s : State) (r : Reg8) (v : Byte) : (s.setR8 r v).ifReg = s.ifReg := rfl
@[simp] theorem State.setR8_ie (s : State) (r : Reg8) (v : Byte) : (s.setR8 r v).ie = s.ie := rfl
@[simp] theorem State.setR8_timer (s : State) (r : Reg8) (v : Byte) : (s.setR8 r v).timer = s.timer := rfl
@[simp] theorem State.setR8_lcd (s : State) (r : Reg8) (v : Byte) : (s.setR8 r v).lcd = s.lcd := rfl
@[simp] theorem State.setR8_ppu (s : State) (r : Reg8) (v : Byte) : (s.setR8 r v).ppu = s.ppu := rfl
@[simp] theorem State.setR8_ram (s : State) (r : Reg8) (v : Byte) : (s.setR8 r v).ram = s.ram := rfl
@[simp] theorem State.setR8_cart (s : State) (r : Reg8) (v : Byte) : (s.setR8 r v).cart = s.cart := rfl
@[simp] theorem State.setR8_mbc (s : State) (r : Reg8) (v : Byte) : (s.setR8 r v).mbc = s.mbc := rfl
@[simp] theorem State.setR8_driver (s : State) (r : Reg8) (v : Byte) : (s.setR8 r v).driver = s.driver := rfl

@[simp] theorem State.setR16_params (s : State) (rr : Reg16) (v : Word) : (s.setR16 rr v).params = s.params := rfl
@[simp] theorem State.setR16_regs (s : State) (rr : Reg16) (v : Word) : (s.setR16 rr v).regs = s.regs.set16 rr v := rfl
@[simp] theorem State.setR16_ime (s : State) (rr : Reg16) (v : Word) : (s.setR16 rr v).ime = s.ime := rfl
@[simp] theorem State.setR16_eiPending (s : State) (rr : Reg16) (v : Word) : (s.setR16 rr v).eiPending = s.eiPending := rfl
@[simp] theorem State.setR16_run (s : State) (rr : Reg16) (v : Word) : (s.setR16 rr v).run = s.run := rfl
@[simp] theorem State.setR16_cycles (s : State) (rr : Reg16) (v : Word) : (s.setR16 rr v).cycles = s.cycles := rfl
@[simp] theorem State.setR16_report (s : State) (rr : Reg16) (v : Word) : (s.setR16 rr v).report = s.report := rfl
@[simp] theorem State.setR16_ifReg (s : State) (rr : Reg16) (v : Word) : (s.setR16 rr v).ifReg = s.ifReg := rfl
@[simp] theorem State.setR16_ie (s : State) (rr : Reg16) (v : Word) : (s.setR16 rr v).ie = s.ie := rfl
@[simp] theorem State.setR16_timer (s : State) (rr : Reg16) (v : Word) : (s.setR16 rr v).timer = s.timer := rfl
@[simp] theorem State.setR16_lcd (s : State) (rr : Reg16) (v : Word) : (s.setR16 rr v).lcd = s.lcd := rfl
@[simp] theorem State.setR16_ppu (s : State) (rr : Reg16) (v : Word) : (s.setR16 rr v).ppu = s.ppu := rfl
@[simp] theorem State.setR16_ram (s : State) (rr : Reg16) (v : Word) : (s.setR16 rr v).ram = s.ram := rfl
@[simp] theorem State.setR16_cart (s : State) (rr : Reg16) (v : Word) : (s.setR16 rr v).cart = s.cart := rfl
@[simp] theorem State.setR16_mbc (s : State) (rr : Reg16) (v : Word) : (s.setR16 rr v).mbc = s.mbc := rfl
@[simp] theorem State.setR16_driver (s : State) (rr : Reg16) (v : Word) : (s.setR16 rr v).driver = s.driver := rfl

@[simp] theorem State.setF_params (s : State) (f : Byte) : (s.setF f).params = s.params := rfl
@[simp] theorem State.setF_regs (s : State) (f : Byte) : (s.setF f).regs = { s.regs with f := f } := rfl
@[simp] theorem State.setF_ime (s : State) (f : Byte) : (s.setF f).ime = s.ime := rfl
@[simp] theorem State.setF_eiPending (s : State) (f : Byte) : (s.setF f).eiPending = s.eiPending := rfl
@[simp] theorem State.setF_run (s : State) (f : Byte) : (s.setF f).run = s.run := rfl
@[simp] theorem State.setF_cycles (s : State) (f : Byte) : (s.setF f).cycles = s.cycles := rfl
@[simp] theorem State.setF_report (s : State) (f : Byte) : (s.setF f).report = s.report := rfl
@[simp] theorem State.setF_ifReg (s : State) (f : Byte) : (s.setF f).ifReg = s.ifReg := rfl
@[simp] theorem State.setF_ie (s : State) (f : Byte) : (s.setF f).ie = s.ie := rfl
@[simp] theorem State.setF_timer (s : State) (f : Byte) : (s.setF f).timer = s.timer := rfl
@[simp] theorem State.setF_lcd (s : State) (f : Byte) : (s.setF f).lcd = s.lcd := rfl
@[simp] theorem State.setF_ppu (s : State) (f : Byte) : (s.setF f).ppu = s.ppu := rfl
@[simp] theorem State.setF_ram (s : State) (f : Byte) : (s.setF f).ram = s.ram := rfl
@[simp] theorem State.setF_cart (s : State) (f : Byte) : (s.setF f).cart = s.cart := rfl
@[simp] theorem State.setF_mbc (s : State) (f : Byte) : (s.setF f).mbc = s.mbc := rfl
@[simp] theorem State.setF_driver (s : State) (f : Byte) : (s.setF f).driver = s.driver := rfl

@[simp] theorem State.setSp_params (s : State) (v : Word) : (s.setSp v).params = s.params := rfl
@[simp] theorem State.setSp_regs (s : State) (v : Word) : (s.setSp v).regs = { s.regs with sp := v } := rfl
@[simp] theorem State.setSp_ime (s : State) (v : Word) : (s.setSp v).ime = s.ime := rfl
@[simp] theorem State.setSp_eiPending (s : State) (v : Word) : (s.setSp v).eiPending = s.eiPending := rfl
@[simp] theorem State.setSp_run (s : State) (v : Word) : (s.setSp v).run = s.run := rfl
@[simp] theorem State.setSp_cycles (s : State) (v : Word) : (s.setSp v).cycles = s.cycles := rfl
@[simp] theorem State.setSp_report (s : State) (v : Word) : (s.setSp v).report = s.report := rfl
@[simp] theorem State.setSp_ifReg (s : State) (v : Word) : (s.setSp v).ifReg = s.ifReg := rfl
@[simp] theorem State.setSp_ie (s : State) (v : Word) : (s.setSp v).ie = s.ie := rfl
@[simp] theorem State.setSp_timer (s : State) (v : Word) : (s.setSp v).timer = s.timer := rfl
@[simp] theorem State.setSp_lcd (s : State) (v : Word) : (s.setSp v).lcd = s.lcd := rfl
@[simp] theorem State.setSp_ppu (s : State) (v : Word) : (s.setSp v).ppu = s.ppu := rfl
@[simp] theorem State.setSp_ram (s : State) (v : Word) : (s.setSp v).ram = s.ram := rfl
@[simp] theorem State.setSp_cart (s : State) (v : Word) : (s.setSp v).cart = s.cart := rfl
@[simp] theorem State.setSp_mbc (s : State) (v : Word) : (s.setSp v).mbc = s.mbc := rfl
@[simp] theorem State.setSp_driver (s : State) (v : Word) : (s.setSp v).driver = s.driver := rfl

@[simp] theorem State.setPc_params (s : State) (v : Word) : (s.setPc v).params = s.params := rfl
@[simp] theorem State.setPc_regs (s : State) (v : Word) : (s.setPc v).regs = { s.regs with pc := v } := rfl
@[simp] theorem State.setPc_ime (s : State) (v : Word) : (s.setPc v).ime = s.ime := rfl
@[simp] theorem State.setPc_eiPending (s : State) (v : Word) : (s.setPc v).eiPending = s.eiPending := rfl
@[simp] theorem State.setPc_run (s : State) (v : Word) : (s.setPc v).run = s.run := rfl
@[simp] theorem State.setPc_cycles (s : State) (v : Word) : (s.setPc v).cycles = s.cycles := rfl
@[simp] theorem State.setPc_report (s : State) (v : Word) : (s.setPc v).report = s.report := rfl
@[simp] theorem State.setPc_ifReg (s : State) (v : Word) : (s.setPc v).ifReg = s.ifReg := rfl
@[simp] theorem State.setPc_ie (s : State) (v : Word) : (s.setPc v).ie = s.ie := rfl
@[simp] theorem State.setPc_timer (s : State) (v : Word) : (s.setPc v).timer = s.timer := rfl
@[simp] theorem State.setPc_lcd (s : State) (v : Word) : (s.setPc v).lcd = s.lcd := rfl
@[simp] theorem State.setPc_ppu (s : State) (v : Word) : (s.setPc v).ppu = s.ppu := rfl
@[simp] theorem State.setPc_ram (s : State) (v : Word) : (s.setPc v).ram = s.ram := rfl
@[simp] theorem State.setPc_cart (s : State) (v : Word) : (s.setPc v).cart = s.cart := rfl
@[simp] theorem State.setPc_mbc (s : State) (v : Word) : (s.setPc v).mbc = s.mbc := rfl
@[simp] theorem State.setPc_driver (s : State) (v : Word) : (s.setPc v).driver = s.driver := rfl

@[simp] theorem State.setAF_params (s : State) (x : AluResult) : (s.setAF x).params = s.params := rfl
@[simp] theorem State.setAF_regs (s : State) (x : AluResult) : (s.setAF x).regs = { s.regs with a := x.r, f := x.flags } := rfl
@[simp] theorem State.setAF_ime (s : State) (x : AluResult) : (s.setAF x).ime = s.ime := rfl
@[simp] theorem State.setAF_eiPending (s : State) (x : AluResult) : (s.setAF x).eiPending = s.eiPending := rfl
@[simp] theorem State.setAF_run (s : State) (x : AluResult) : (s.setAF x).run = s.run := rfl
@[simp] theorem State.setAF_cycles (s : State) (x : AluResult) : (s.setAF x).cycles = s.cycles := rfl
@[simp] theorem State.setAF_report (s : State) (x : AluResult) : (s.setAF x).report = s.report := rfl
@[simp] theorem State.setAF_ifReg (s : State) (x : AluResult) : (s.setAF x).ifReg = s.ifReg := rfl
@[simp] theorem State.setAF_ie (s : State) (x : AluResult) : (s.setAF x).ie = s.ie := rfl
@[simp] theorem State.setAF_timer (s : State) (x : AluResult) : (s.setAF x).timer = s.timer := rfl
@[simp] theorem State.setAF_lcd (s : State) (x : AluResult) : (s.setAF x).lcd = s.lcd := rfl
@[simp] theorem State.setAF_ppu (s : State) (x : AluResult) : (s.setAF x).ppu = s.ppu := rfl
@[simp] theorem State.setAF_ram (s : State) (x : AluResult) : (s.setAF x).ram = s.ram := rfl
@[simp] theorem State.setAF_cart (s : State) (x : AluResult) : (s.setAF x).cart = s.cart := rfl
@[simp] theorem State.setAF_mbc (s : State) (x : AluResult) : (s.setAF x).mbc = s.mbc := rfl
@[simp] theorem State.setAF_driver (s : State) (x : AluResult) : (s.setAF x).driver = s.driver := rfl

@[simp] theorem State.setIme_params (s : State) (b : Bool) : (s.setIme b).params = s.params := rfl
@[simp] theorem State.setIme_regs (s : State) (b : Bool) : (s.setIme b).regs = s.regs := rfl
@[simp] theorem State.setIme_ime (s : State) (b : Bool) : (s.setIme b).ime = b := rfl
@[simp] theorem State.setIme_eiPending (s : State) (b : Bool) : (s.setIme b).eiPending = s.eiPending := rfl
@[simp] theorem State.setIme_run (s : State) (b : Bool) : (s.setIme b).run = s.run := rfl
@[simp] theorem State.setIme_cycles (s : State) (b : Bool) : (s.setIme b).cycles = s.cycles := rfl
@[simp] theorem State.setIme_report (s : State) (b : Bool) : (s.setIme b).report = s.report := rfl
@[simp] theorem State.setIme_ifReg (s : State) (b : Bool) : (s.setIme b).ifReg = s.ifReg := rfl
@[simp] theorem State.setIme_ie (s : State) (b : Bool) : (s.setIme b).ie = s.ie := rfl
@[simp] theorem State.setIme_timer (s : State) (b : Bool) : (s.setIme b).timer = s.timer := rfl
@[simp] theorem State.setIme_lcd (s : State) (b : Bool) : (s.setIme b).lcd = s.lcd := rfl
@[simp] theorem State.setIme_ppu (s : State) (b : Bool) : (s.setIme b).ppu = s.ppu := rfl
@[simp] theorem State.setIme_ram (s : State) (b : Bool) : (s.setIme b).ram = s.ram := rfl
@[simp] theorem State.setIme_cart (s : State) (b : Bool) : (s.setIme b).cart = s.cart := rfl
@[simp] theorem State.setIme_mbc (s : State) (b : Bool) : (s.setIme b).mbc = s.mbc := rfl
@[simp] theorem State.setIme_driver (s : State) (b : Bool) : (s.setIme b).driver = s.driver := rfl

@[simp] theorem State.setEiPending_params (s : State) (b : Bool) : (s.setEiPending b).params = s.params := rfl
@[simp] theorem State.setEiPending_regs (s : State) (b : Bool) : (s.setEiPending b).regs = s.regs := rfl
@[simp] theorem State.setEiPending_ime (s : State) (b : Bool) : (s.setEiPending b).ime = s.ime := rfl
@[simp] theorem State.setEiPending_eiPending (s : State) (b : Bool) : (s.setEiPending b).eiPending = b := rfl
@[simp] theorem State.setEiPending_run (s : State) (b : Bool) : (s.setEiPending b).run = s.run := rfl
@[simp] theorem State.setEiPending_cycles (s : State) (b : Bool) : (s.setEiPending b).cycles = s.cycles := rfl
@[simp] theorem State.setEiPending_report (s : State) (b : Bool) : (s.setEiPending b).report = s.report := rfl
@[simp] theorem State.setEiPending_ifReg (s : State) (b : Bool) : (s.setEiPending b).ifReg = s.ifReg := rfl
@[simp] theorem State.setEiPending_ie (s : State) (b : Bool) : (s.setEiPending b).ie = s.ie := rfl
@[simp] theorem State.setEiPending_timer (s : State) (b : Bool) : (s.setEiPending b).timer = s.timer := rfl
@[simp] theorem State.setEiPending_lcd (s : State) (b : Bool) : (s.setEiPending b).lcd = s.lcd := rfl
@[simp] theorem State.setEiPending_ppu (s : State) (b : Bool) : (s.setEiPending b).ppu = s.ppu := rfl
@[simp] theorem State.setEiPending_ram (s : State) (b : Bool) : (s.setEiPending b).ram = s.ram := rfl
@[simp] theorem State.setEiPending_cart (s : State) (b : Bool) : (s.setEiPending b).cart = s.cart := rfl
@[simp] theorem State.setEiPending_mbc (s : State) (b : Bool) : (s.setEiPending b).mbc = s.mbc := rfl
@[simp] theorem State.setEiPending_driver (s : State) (b : Bool) : (s.setEiPending b).driver = s.driver := rfl

@[simp] theorem State.setRun_params (s : State) (r : RunState) : (s.setRun r).params = s.params := rfl
@[simp] theorem State.setRun_regs (s : State) (r : RunState) : (s.setRun r).regs = s.regs := rfl
@[simp] theorem State.setRun_ime (s : State) (r : RunState) : (s.setRun r).ime = s.ime := rfl
@[simp] theorem State.setRun_eiPending (s : State) (r : RunState) : (s.setRun r).eiPending = s.eiPending := rfl
@[simp] theorem State.setRun_run (s : State) (r : RunState) : (s.setRun r).run = r := rfl
@[simp] theorem State.setRun_cycles (s : State) (r : RunState) : (s.setRun r).cycles = s.cycles := rfl
@[simp] theorem State.setRun_report (s : State) (r : RunState) : (s.setRun r).report = s.report := rfl
@[simp] theorem State.setRun_ifReg (s : State) (r : RunState) : (s.setRun r).ifReg = s.ifReg := rfl
@[simp] theorem State.setRun_ie (s : State) (r : RunState) : (s.setRun r).ie = s.ie := rfl
@[simp] theorem State.setRun_timer (s : State) (r : RunState) : (s.setRun r).timer = s.timer := rfl
@[simp] theorem State.setRun_lcd (s : State) (r : RunState) : (s.setRun r).lcd = s.lcd := rfl
@[simp] theorem State.setRun_ppu (s : State) (r : RunState) : (s.setRun r).ppu = s.ppu := rfl
@[simp] theorem State.setRun_ram (s : State) (r : RunState) : (s.setRun r).ram = s.ram := rfl
@[simp] theorem State.setRun_cart (s : State) (r : RunState) : (s.setRun r).cart = s.cart := rfl
@[simp] theorem State.setRun_mbc (s : State) (r : RunState) : (s.setRun r).mbc = s.mbc := rfl
@[simp] theorem State.setRun_driver (s : State) (r : RunState) : (s.setRun r).driver = s.driver := rfl

@[simp] theorem State.tick_params (s : State) (n : Nat) : (s.tick n).params = s.params := rfl
@[simp] theorem State.tick_regs (s : State) (n : Nat) : (s.tick n).regs = s.regs := rfl
@[simp] theorem State.tick_ime (s : State) (n : Nat) : (s.tick n).ime = s.ime := rfl
@[simp] theorem State.tick_eiPending (s : State) (n : Nat) : (s.tick n).eiPending = s.eiPending := rfl
@[simp] theorem State.tick_run (s : State) (n : Nat) : (s.tick n).run = s.run := rfl
@[simp] theorem State.tick_cycles (s : State) (n : Nat) : (s.tick n).cycles = s.cycles + n := rfl
@[simp] theorem State.tick_report (s : State) (n : Nat) : (s.tick n).report = .cycles n := rfl
@[simp] theorem State.tick_ifReg (s : State) (n : Nat) : (s.tick n).ifReg = s.ifReg := rfl
@[simp] theorem State.tick_ie (s : State) (n : Nat) : (s.tick n).ie = s.ie := rfl
@[simp] theorem State.tick_timer (s : State) (n : Nat) : (s.tick n).timer = s.timer := rfl
@[simp] theorem State.tick_lcd (s : State) (n : Nat) : (s.tick n).lcd = s.lcd := rfl
@[simp] theorem State.tick_ppu (s : State) (n : Nat) : (s.tick n).ppu = s.ppu := rfl
@[simp] theorem State.tick_ram (s : State) (n : Nat) : (s.tick n).ram = s.ram := rfl
@[simp] theorem State.tick_cart (s : State) (n : Nat) : (s.tick n).cart = s.cart := rfl
@[simp] theorem State.tick_mbc (s : State) (n : Nat) : (s.tick n).mbc = s.mbc := rfl
@[simp] theorem State.tick_driver (s : State) (n : Nat) : (s.tick n).driver = s.driver := rfl

@[simp] theorem State.request_params (s : State) (q : Irq) : (s.request q).params = s.params := rfl
@[simp] theorem State.request_regs (s : State) (q : Irq) : (s.request q).regs = s.regs := rfl
@[simp] theorem State.request_ime (s : State) (q : Irq) : (s.request q).ime = s.ime := rfl
@[simp] theorem State.request_eiPending (s : State) (q : Irq) : (s.request q).eiPending = s.eiPending := rfl
@[simp] theorem State.request_run (s : State) (q : Irq) : (s.request q).run = s.run := rfl
@[simp] theorem State.request_cycles (s : State) (q : Irq) : (s.request q).cycles = s.cycles := rfl
@[simp] theorem State.request_report (s : State) (q : Irq) : (s.request q).report = s.report := rfl
@[simp] theorem State.request_ifReg (s : State) (q : Irq) : (s.request q).ifReg = s.ifReg ||| (1#5 <<< q.bit) := rfl
@[simp] theorem State.request_ie (s : State) (q : Irq) : (s.request q).ie = s.ie := rfl
@[simp] theorem State.request_timer (s : State) (q : Irq) : (s.request q).timer = s.timer := rfl
@[simp] theorem State.request_lcd (s : State) (q : Irq) : (s.request q).lcd = s.lcd := rfl
@[simp] theorem State.request_ppu (s : State) (q : Irq) : (s.request q).ppu = s.ppu := rfl
@[simp] theorem State.request_ram (s : State) (q : Irq) : (s.request q).ram = s.ram := rfl
@[simp] theorem State.request_cart (s : State) (q : Irq) : (s.request q).cart = s.cart := rfl
@[simp] theorem State.request_mbc (s : State) (q : Irq) : (s.request q).mbc = s.mbc := rfl
@[simp] theorem State.request_driver (s : State) (q : Irq) : (s.request q).driver = s.driver := rfl

/-! ## Updates of updates -/

@[simp] theorem State.withRegs_withRegs (s : State) (g h : Regs) : (s.withRegs g).withRegs h = s.withRegs h := rfl

theorem State.setR8_eq (s : State) (r : Reg8) (v : Byte) : s.setR8 r v = s.withRegs (s.regs.set r v) := rfl
theorem State.setR16_eq (s : State) (rr : Reg16) (v : Word) : s.setR16 rr v = s.withRegs (s.regs.set16 rr v) := rfl
theorem State.setF_eq (s : State) (f : Byte) : s.setF f = s.withRegs { s.regs with f := f } := rfl
theorem State.setSp_eq (s : State) (v : Word) : s.setSp v = s.withRegs { s.regs with sp := v } := rfl
theorem State.setPc_eq (s : State) (v : Word) : s.setPc v = s.withRegs { s.regs with pc := v } := rfl
theorem State.setAF_eq (s : State) (x : AluResult) :
    s.setAF x = s.withRegs { s.regs with a := x.r, f := x.flags } := rfl

end Sys2Proof.Machine
end

