-- ==== Sys2Proof/Laws/Bus.lean ====
section
/-! SUPPORT. What a Bus access can and cannot do: a read looks at nothing on the CPU's side, a write changes one thing on
the Bus side, and the CPU's side commutes with both. -/

namespace Sys2Proof.Machine

/-! ## Reads do not look at the CPU's side -/

@[simp] theorem memRead_withRegs (s : State) (g : Regs) (a : Word) : memRead (s.withRegs g) a = memRead s a := rfl
@[simp] theorem memRead_setR8 (s : State) (r : Reg8) (v : Byte) (a : Word) : memRead (s.setR8 r v) a = memRead s a := rfl
@[simp] theorem memRead_setR16 (s : State) (rr : Reg16) (v a : Word) : memRead (s.setR16 rr v) a = memRead s a := rfl
@[simp] theorem memRead_setF (s : State) (f : Byte) (a : Word) : memRead (s.setF f) a = memRead s a := rfl
@[simp] theorem memRead_setSp (s : State) (v a : Word) : memRead (s.setSp v) a = memRead s a := rfl
@[simp] theorem memRead_setPc (s : State) (v a : Word) : memRead (s.setPc v) a = memRead s a := rfl
@[simp] theorem memRead_setAF (s : State) (x : AluResult) (a : Word) : memRead (s.setAF x) a = memRead s a := rfl
@[simp] theorem memRead_setIme (s : State) (b : Bool) (a : Word) : memRead (s.setIme b) a = memRead s a := rfl
@[simp] theorem memRead_setEiPending (s : State) (b : Bool) (a : Word) : memRead (s.setEiPending b) a = memRead s a := rfl
@[simp] theorem memRead_setRun (s : State) (r : RunState) (a : Word) : memRead (s.setRun r) a = memRead s a := rfl
@[simp] theorem memRead_tick (s : State) (n : Nat) (a : Word) : memRead (s.tick n) a = memRead s a := rfl

/-- A read looks at the Bus side only: LCDC, the mode, the devices' registers, the memories, the cartridge. -/
theorem memRead_congr {s t : State} (h1 : t.ifReg = s.ifReg) (h2 : t.ie = s.ie) (h3 : t.timer = s.timer)
    (h4 : t.lcd = s.lcd) (h5 : t.ppu.mode = s.ppu.mode) (h6 : t.ram = s.ram) (h7 : t.cart = s.cart)
    (h8 : t.mbc = s.mbc) (a : Word) : memRead t a = memRead s a := by
  have e1 : vramLocked t = vramLocked s := by simp [vramLocked, State.lcdOn, h4, h5]
  have e2 : oamLocked t = oamLocked s := by simp [oamLocked, State.lcdOn, h4, h5]
  have e3 : romRead t = romRead s := by funext n; simp [romRead, h7, h8]
  have e4 : cramIndex t = cramIndex s := by funext n; simp [cramIndex, h7, h8]
  have e5 : isHalfByteRam t = isHalfByteRam s := by simp [isHalfByteRam, h7]
  have e6 : cramRead t = cramRead s := by funext n; simp [cramRead, e4, e5, h6]
  have e7 : ioRegRead t = ioRegRead s := by
    funext r; cases r <;> simp [ioRegRead, statRead, State.lcdOn, h1, h3, h4, h5]
  have e8 : ioRead t = ioRead s := by funext n; simp [ioRead, e7]
  simp [memRead, readWith, e1, e2, e3, e6, e8, h2, h6]

/-! ## The OAM copy changes OAM only -/

theorem oamCopy_fold (v : Byte) (l : List Nat) (s : State) :
    l.foldl (oamCopyByte v) s = { s with ram.oam := (l.foldl (oamCopyByte v) s).ram.oam } := by
  induction l generalizing s with
  | nil => rfl
  | cons i rest ih =>
    rw [List.foldl_cons, ih (oamCopyByte v s i)]
    rfl

/-- All that the OAM copy changes is OAM. -/
theorem oamCopy_eq (v : Byte) (s : State) : oamCopy v s = { s with ram.oam := (oamCopy v s).ram.oam } :=
  oamCopy_fold v _ s

theorem oamCopy_fold_comm (v : Byte) (f : State → State)
    (hf : ∀ s i, oamCopyByte v (f s) i = f (oamCopyByte v s i)) (l : List Nat) (s : State) :
    l.foldl (oamCopyByte v) (f s) = f (l.foldl (oamCopyByte v) s) := by
  induction l generalizing s with
  | nil => rfl
  | cons i rest ih => rw [List.foldl_cons, List.foldl_cons, hf, ih]

/-! ## What a write can do -/

/-- All that a write of LCDC changes is on the LCD's and the PPU's side. -/
theorem lcdcWrite_eq (v : Byte) (s : State) :
    lcdcWrite v s = { s with lcd := (lcdcWrite v s).lcd, ppu := (lcdcWrite v s).ppu } := by
  unfold lcdcWrite
  split
  · rfl
  · split <;> rfl

/-- All that a write of an I/O register changes: the timer, IF, the LCD registers, the PPU, OAM. -/
theorem ioRegWrite_eq (s : State) (v : Byte) (r : IoReg) :
    ioRegWrite s v r =
      { s with
        timer := (ioRegWrite s v r).timer, ifReg := (ioRegWrite s v r).ifReg, lcd := (ioRegWrite s v r).lcd
        ppu := (ioRegWrite s v r).ppu, ram.oam := (ioRegWrite s v r).ram.oam } := by
  cases r
  case lcdc => exact (lcdcWrite_eq v s).trans (by rw [show ioRegWrite s v .lcdc = lcdcWrite v s from rfl, lcdcWrite_eq])
  case dma =>
    show oamCopy v _ = _
    rw [show ioRegWrite s v .dma = oamCopy v { s with lcd.dma := v } from rfl, oamCopy_eq]
  all_goals rfl

/-- All that a Bus write changes: the Bus side, never the CPU, the bookkeeping, the cartridge, the parameters or the
driver. -/
theorem memWrite_eq (s : State) (a : Word) (v : Byte) :
    memWrite s a v =
      { s with
        timer := (memWrite s a v).timer, ifReg := (memWrite s a v).ifReg, ie := (memWrite s a v).ie
        lcd := (memWrite s a v).lcd, ppu := (memWrite s a v).ppu, ram := (memWrite s a v).ram
        mbc := (memWrite s a v).mbc } := by
  unfold memWrite
  cases region a
  case rom => simp only [mbcControl]; split <;> rfl
  case vram k => simp only; split <;> rfl
  case cram => simp only [cramWrite]; split <;> rfl
  case oam k => simp only; split <;> rfl
  case io =>
    simp only [ioWrite]
    split
    · rfl
    · exact (ioRegWrite_eq s v _).trans (by rw [ioRegWrite_eq])
  all_goals rfl

@[simp] theorem memWrite_params (s : State) (a : Word) (v : Byte) : (memWrite s a v).params = s.params := by
  rw [memWrite_eq]
@[simp] theorem memWrite_regs (s : State) (a : Word) (v : Byte) : (memWrite s a v).regs = s.regs := by rw [memWrite_eq]
@[simp] theorem memWrite_ime (s : State) (a : Word) (v : Byte) : (memWrite s a v).ime = s.ime := by rw [memWrite_eq]
@[simp] theorem memWrite_eiPending (s : State) (a : Word) (v : Byte) : (memWrite s a v).eiPending = s.eiPending := by
  rw [memWrite_eq]
@[simp] theorem memWrite_run (s : State) (a : Word) (v : Byte) : (memWrite s a v).run = s.run := by rw [memWrite_eq]
@[simp] theorem memWrite_cycles (s : State) (a : Word) (v : Byte) : (memWrite s a v).cycles = s.cycles := by
  rw [memWrite_eq]
@[simp] theorem memWrite_report (s : State) (a : Word) (v : Byte) : (memWrite s a v).report = s.report := by
  rw [memWrite_eq]
@[simp] theorem memWrite_cart (s : State) (a : Word) (v : Byte) : (memWrite s a v).cart = s.cart := by rw [memWrite_eq]
@[simp] theorem memWrite_driver (s : State) (a : Word) (v : Byte) : (memWrite s a v).driver = s.driver := by
  rw [memWrite_eq]

/-! ## A write commutes with the CPU's side -/

/-- An update that no Bus write looks at. -/
theorem memWrite_comm (f : State → State)
    (hf : ∀ s, f s = { s with regs := (f s).regs, ime := (f s).ime, eiPending := (f s).eiPending, run := (f s).run,
                              cycles := (f s).cycles, report := (f s).report })
    (hc : ∀ s u, (u.params = s.params → u.regs = s.regs → u.ime = s.ime → u.eiPending = s.eiPending → u.run = s.run →
      u.cycles = s.cycles → u.report = s.report → u.cart = s.cart → u.driver = s.driver →
      f u = { u with regs := (f s).regs, ime := (f s).ime, eiPending := (f s).eiPending, run := (f s).run,
                     cycles := (f s).cycles, report := (f s).report }))
    (s : State) (a : Word) (v : Byte) : memWrite (f s) a v = f (memWrite s a v) := by
  rw [hc s (memWrite s a v) (by simp) (by simp) (by simp) (by simp) (by simp) (by simp) (by simp) (by simp) (by simp),
    hf s]
  generalize (f s).regs = g, (f s).ime = i, (f s).eiPending = e, (f s).run = r, (f s).cycles = n, (f s).report = p
  unfold memWrite
  cases region a
  case rom =>
    show mbcControl _ _ _ = { (mbcControl s a.toNat v) with regs := g, ime := i, eiPending := e, run := r, cycles := n, report := p }
    rcases h : s.cart with _ | c <;> simp [mbcControl, h]
  case vram k =>
    show (if vramLocked s then _ else _) = _
    cases vramLocked s <;> rfl
  case cram =>
    show cramWrite _ _ _ = _
    unfold cramWrite
    rw [show cramIndex { s with regs := g, ime := i, eiPending := e, run := r, cycles := n, report := p } a.toNat
          = cramIndex s a.toNat from rfl]
    cases cramIndex s a.toNat <;> rfl
  case oam k =>
    show (if oamLocked s then _ else _) = _
    cases oamLocked s <;> rfl
  case io =>
    simp only [ioWrite]
    cases ioReg? a with
    | none => rfl
    | some q =>
      cases q
      case lcdc =>
        show lcdcWrite v _ = _
        unfold lcdcWrite
        show (if s.lcd.lcdc.getLsbD 7 && !v.getLsbD 7 then _ else if !s.lcd.lcdc.getLsbD 7 && v.getLsbD 7 then _ else _)
          = _
        show _ = { (lcdcWrite v s) with regs := g, ime := i, eiPending := e, run := r, cycles := n, report := p }
        unfold lcdcWrite
        cases s.lcd.lcdc.getLsbD 7 <;> cases v.getLsbD 7 <;> rfl
      case dma =>
        exact oamCopy_fold_comm v
          (fun s => { s with regs := g, ime := i, eiPending := e, run := r, cycles := n, report := p })
          (fun _ _ => rfl) _ { s with lcd.dma := v }
      all_goals rfl
  all_goals rfl

theorem memWrite_withRegs (s : State) (g : Regs) (a : Word) (v : Byte) :
    memWrite (s.withRegs g) a v = (memWrite s a v).withRegs g :=
  memWrite_comm (fun s => s.withRegs g) (fun _ => rfl) (by intro s u; intros; simp_all [State.withRegs]) s a v

theorem memWrite_setIme (s : State) (b : Bool) (a : Word) (v : Byte) :
    memWrite (s.setIme b) a v = (memWrite s a v).setIme b :=
  memWrite_comm (fun s => s.setIme b) (fun _ => rfl) (by intro s u; intros; simp_all [State.setIme]) s a v

theorem memWrite_setEiPending (s : State) (b : Bool) (a : Word) (v : Byte) :
    memWrite (s.setEiPending b) a v = (memWrite s a v).setEiPending b :=
  memWrite_comm (fun s => s.setEiPending b) (fun _ => rfl) (by intro s u; intros; simp_all [State.setEiPending]) s a v

theorem memWrite_setRun (s : State) (r : RunState) (a : Word) (v : Byte) :
    memWrite (s.setRun r) a v = (memWrite s a v).setRun r :=
  memWrite_comm (fun s => s.setRun r) (fun _ => rfl) (by intro s u; intros; simp_all [State.setRun]) s a v

theorem memWrite_tick (s : State) (n : Nat) (a : Word) (v : Byte) :
    memWrite (s.tick n) a v = (memWrite s a v).tick n :=
  memWrite_comm (fun s => s.tick n) (fun _ => rfl) (by intro s u; intros; simp_all [State.tick]) s a v

theorem memWrite_setSp (s : State) (w a : Word) (v : Byte) : memWrite (s.setSp w) a v = (memWrite s a v).setSp w := by
  rw [State.setSp_eq, memWrite_withRegs, State.setSp_eq, memWrite_regs]

theorem memWrite_setPc (s : State) (w a : Word) (v : Byte) : memWrite (s.setPc w) a v = (memWrite s a v).setPc w := by
  rw [State.setPc_eq, memWrite_withRegs, State.setPc_eq, memWrite_regs]

/-! ## The stack -/

/-- `Push16(v)` is two writes below SP, with SP moved by two. -/
theorem push16_eq (s : State) (v : Word) :
    push16 s v =
      (memWrite (memWrite s (s.regs.sp - 1) (hiByte v)) (s.regs.sp - 2) (loByte v)).setSp (s.regs.sp - 2) := by
  have e : s.regs.sp - 1 - 1 = s.regs.sp - 2 := by
    rw [BitVec.sub_sub]; rfl
  simp only [push16, State.setSp_regs, memWrite_regs, e, memWrite_setSp]
  rfl

/-! ## What each region's write is -/

theorem memWrite_of_rom {a : Word} (h : region a = .rom) (s : State) (v : Byte) :
    memWrite s a v = mbcControl s a.toNat v := by rw [memWrite, h]
theorem memWrite_of_vram {a : Word} {k : Nat} (h : region a = .vram k) (s : State) (v : Byte) :
    memWrite s a v = if vramLocked s then s else { s with ram.vram := Memory.write s.ram.vram k v } := by
  rw [memWrite, h]
theorem memWrite_of_cram {a : Word} (h : region a = .cram) (s : State) (v : Byte) :
    memWrite s a v = cramWrite s a.toNat v := by rw [memWrite, h]
theorem memWrite_of_wram {a : Word} {k : Nat} (h : region a = .wram k) (s : State) (v : Byte) :
    memWrite s a v = { s with ram.wram := Memory.write s.ram.wram k v } := by rw [memWrite, h]
theorem memWrite_of_oam {a : Word} {k : Nat} (h : region a = .oam k) (s : State) (v : Byte) :
    memWrite s a v = if oamLocked s then s else { s with ram.oam := Memory.write s.ram.oam k v } := by
  rw [memWrite, h]
theorem memWrite_of_unmapped {a : Word} (h : region a = .unmapped) (s : State) (v : Byte) : memWrite s a v = s := by
  rw [memWrite, h]
theorem memWrite_of_io {a : Word} (h : region a = .io) (s : State) (v : Byte) : memWrite s a v = ioWrite s a v := by
  rw [memWrite, h]
theorem memWrite_of_hram {a : Word} {k : Nat} (h : region a = .hram k) (s : State) (v : Byte) :
    memWrite s a v = { s with ram.hram := Memory.write s.ram.hram k v } := by rw [memWrite, h]
theorem memWrite_of_ie {a : Word} (h : region a = .ie) (s : State) (v : Byte) : memWrite s a v = { s with ie := v } := by
  rw [memWrite, h]

/-! ## The decoder's bounds -/

theorem region_vram {a : Word} {k : Nat} (h : region a = .vram k) : k < 0x2000 := by
  simp only [region] at h; split_ifs at h <;> simp_all <;> omega
theorem region_wram {a : Word} {k : Nat} (h : region a = .wram k) : k < 0x2000 := by
  simp only [region] at h; split_ifs at h <;> simp_all <;> omega
theorem region_oam {a : Word} {k : Nat} (h : region a = .oam k) : k < oamSize := by
  simp only [region] at h; simp only [oamSize]; split_ifs at h <;> simp_all <;> omega
theorem region_hram {a : Word} {k : Nat} (h : region a = .hram k) : k < 127 := by
  simp only [region] at h; split_ifs at h <;> simp_all <;> omega

end Sys2Proof.Machine
end

