-- ==== Sys2Proof/Laws/Decode.lean ====
section
/-! SUPPORT. Lemmas of the decoder: the cases of its small fields, the reading of a list by its first bytes, and the second
bytes of the CB format. -/

namespace Sys2Proof

/-- The eight values of a bit number or an `RST` field. -/
theorem bitNo_cases (b : BitNo) : b = 0 ∨ b = 1 ∨ b = 2 ∨ b = 3 ∨ b = 4 ∨ b = 5 ∨ b = 6 ∨ b = 7 := by
  revert b
  decide

/-- `decode` of a non-empty list is `decodeBytes` of its first bytes, where there are enough. -/
theorem decode_cons (op : Byte) (rest : List Byte)
    (h : (decodeBytes op (rest.getD 0 0) (rest.getD 1 0)).length ≤ rest.length + 1) :
    decode (op :: rest) =
      .ok (decodeBytes op (rest.getD 0 0) (rest.getD 1 0),
        rest.drop ((decodeBytes op (rest.getD 0 0) (rest.getD 1 0)).length - 1)) := by
  unfold decode
  simp only
  rw [if_pos h]

/-- No instruction is longer than three bytes (`30_encoding.md` rule R200). -/
theorem Instr.length_le (i : Instr) : i.length ≤ 3 := by
  cases i <;> simp [Instr.length]

/-- Every instruction has a first byte. -/
theorem Instr.length_pos (i : Instr) : 1 ≤ i.length := by
  cases i <;> simp [Instr.length]

/-- Any three bytes decode. -/
theorem decode_three (op b1 b2 : Byte) :
    decode [op, b1, b2] = .ok (decodeBytes op b1 b2, [b1, b2].drop ((decodeBytes op b1 b2).length - 1)) :=
  decode_cons op [b1, b2] (Instr.length_le _)

/-- Every second byte after the prefix makes an instruction of two bytes (rule R213). -/
theorem decodeCb_length : ∀ op2 : Byte, (decodeCb op2).length = 2 := by decide +kernel

/-- Every second byte after the prefix makes a well-formed instruction (rule R213). -/
theorem decodeCb_wellFormed : ∀ op2 : Byte, (decodeCb op2).wellFormed = true := by decide +kernel

/-- The prefix and its second byte. -/
theorem decode_cb (op2 : Byte) (rest : List Byte) : decode (0xCB#8 :: op2 :: rest) = .ok (decodeCb op2, rest) := by
  have h : decodeBytes 0xCB#8 ((op2 :: rest).getD 0 0) ((op2 :: rest).getD 1 0) = decodeCb op2 := rfl
  rw [decode_cons _ _ (by rw [h, decodeCb_length]; simp), h, decodeCb_length]
  rfl

theorem decodeCb_bitR (b : BitNo) (r : Reg8) : decodeCb (0b01#2 ++ b ++ r.code : Byte) = .bitR b r := by
  revert b
  cases r <;> decide +kernel
theorem decodeCb_resR (b : BitNo) (r : Reg8) : decodeCb (0b10#2 ++ b ++ r.code : Byte) = .resR b r := by
  revert b
  cases r <;> decide +kernel
theorem decodeCb_setR (b : BitNo) (r : Reg8) : decodeCb (0b11#2 ++ b ++ r.code : Byte) = .setR b r := by
  revert b
  cases r <;> decide +kernel
theorem decodeCb_bitHl : ∀ b : BitNo, decodeCb (0b01#2 ++ b ++ 0b110#3 : Byte) = .bitHl b := by decide +kernel
theorem decodeCb_resHl : ∀ b : BitNo, decodeCb (0b10#2 ++ b ++ 0b110#3 : Byte) = .resHl b := by decide +kernel
theorem decodeCb_setHl : ∀ b : BitNo, decodeCb (0b11#2 ++ b ++ 0b110#3 : Byte) = .setHl b := by decide +kernel

theorem fields_rst : ∀ y : RstNo, fieldX (0b11#2 ++ y ++ 0b111#3 : Byte) = 3 ∧
    fieldY (0b11#2 ++ y ++ 0b111#3 : Byte) = y ∧ fieldZ (0b11#2 ++ y ++ 0b111#3 : Byte) = 7 := by decide +kernel

theorem decodeBytes_rst (y : RstNo) (b1 b2 : Byte) : decodeBytes (0b11#2 ++ y ++ 0b111#3 : Byte) b1 b2 = .rst y := by
  obtain ⟨h1, h2, h3⟩ := fields_rst y
  simp [decodeBytes, decodeQuadrant3, h1, h2, h3]

end Sys2Proof
end

