-- ==== Sys2Proof/Laws/Exec.lean ====
section
/-! SUPPORT. What the meanings are made of: every meaning is a composition of register writes, Bus writes, writes of the
interrupt enables and of the run state, and one step of bookkeeping, so a property that these keep is kept by `exec`. -/

namespace Sys2Proof.Machine

/-! ## Flag bytes have a zero low nibble -/

theorem mkF_low (z n h c : Bool) : mkF z n h c &&& 0x0F = 0 := by
  cases z <;> cases n <;> cases h <;> cases c <;> rfl

theorem AluResult.flags_low (x : AluResult) : x.flags &&& 0x0F = 0 := mkF_low _ _ _ _

theorem bitFlags_low (b : BitNo) (v f : Byte) : bitFlags b v f &&& 0x0F = 0 := mkF_low _ _ _ _

theorem and_F0_low (v : Byte) : (v &&& 0xF0) &&& 0x0F = 0 := by
  rw [BitVec.and_assoc]
  exact BitVec.and_zero

@[simp] theorem flagZ_mkF (z n h c : Bool) : flagZ (mkF z n h c) = z := by
  cases z <;> cases n <;> cases h <;> cases c <;> rfl
@[simp] theorem flagN_mkF (z n h c : Bool) : flagN (mkF z n h c) = n := by
  cases z <;> cases n <;> cases h <;> cases c <;> rfl
@[simp] theorem flagH_mkF (z n h c : Bool) : flagH (mkF z n h c) = h := by
  cases z <;> cases n <;> cases h <;> cases c <;> rfl
@[simp] theorem flagC_mkF (z n h c : Bool) : flagC (mkF z n h c) = c := by
  cases z <;> cases n <;> cases h <;> cases c <;> rfl

/-! ## Outcomes -/

@[simp] theorem finish_next (n : Nat) (s t : State) : finish n s = .next t ↔ t = s.tick n := by
  unfold finish
  constructor
  · intro h
    injection h with h
    exact h.symm
  · rintro rfl
    rfl

/-! ## What the shared operations are, as one update -/

/-- A push commutes with IME. -/
theorem push16_setIme (s : State) (b : Bool) (v : Word) : push16 (s.setIme b) v = (push16 s v).setIme b := by
  simp only [push16_eq, State.setIme_regs, memWrite_setIme]
  rfl

/-- A push commutes with `ei_pending`. -/
theorem push16_setEiPending (s : State) (b : Bool) (v : Word) :
    push16 (s.setEiPending b) v = (push16 s v).setEiPending b := by
  simp only [push16_eq, State.setEiPending_regs, memWrite_setEiPending]
  rfl

/-- A push commutes with the run state. -/
theorem push16_setRun (s : State) (r : RunState) (v : Word) : push16 (s.setRun r) v = (push16 s v).setRun r := by
  simp only [push16_eq, State.setRun_regs, memWrite_setRun]
  rfl

/-- A call is two stores below SP, then SP and PC (`45_control.md` rules R435, R441). -/
theorem callTo_eq (target : Word) (s : State) :
    callTo target s =
      ((memWrite (memWrite s (s.regs.sp - 1) (hiByte s.regs.pc)) (s.regs.sp - 2) (loByte s.regs.pc)).setSp
        (s.regs.sp - 2)).setPc target := by
  rw [callTo, push16_eq]

/-- A return is SP and PC; nothing is stored (rule R437). -/
theorem returnPop_eq (s : State) : returnPop s = (s.setSp (s.regs.sp + 2)).setPc (popValue s) := rfl

/-- A dispatch is one cleared IF bit, two stores below SP, then SP, PC, the two enables and the bookkeeping
(`60_exceptions.md` rule R510). -/
theorem dispatchIrq_eq (q : Irq) (s : State) :
    dispatchIrq q s =
      ((((push16 { s with ifReg := s.ifReg &&& ~~~(1#5 <<< q.bit) } s.regs.pc).setIme false).setEiPending false).setPc
        q.vector).tick dispatchCycles := by
  simp only [dispatchIrq, State.setEiPending_regs, State.setIme_regs, push16_setEiPending, push16_setIme]

/-- The fatal condition is PC, the run state and the report (rule R500). -/
theorem raiseIllegal_next (opcode : Byte) (s t : State) :
    raiseIllegal opcode s = .next t ↔
      t = { (s.setPc (s.regs.pc - 1)).setRun (.faulted opcode (s.regs.pc - 1)) with
        report := .illegalInstruction opcode (s.regs.pc - 1) } := by
  unfold raiseIllegal
  constructor
  · intro h
    injection h with h
    exact h.symm
  · rintro rfl
    rfl

/-! ## What a meaning keeps -/

/-- A property that the parts of a meaning keep. A register write may rely on the low nibble of F: it stays zero where it
was zero. -/
structure Closed (P : State → Prop) : Prop where
  regs   : ∀ s g, P s → (s.regs.f &&& 0x0F = 0 → g.f &&& 0x0F = 0) → P (s.withRegs g)
  write  : ∀ s a v, P s → P (memWrite s a v)
  ime    : ∀ s b, P s → P (s.setIme b)
  ei     : ∀ s b, P s → P (s.setEiPending b)
  run    : ∀ s r, P s → P (s.setRun r)
  tick   : ∀ s n, P s → P (s.tick n)
  report : ∀ s r, P s → P { s with report := r }

variable {P : State → Prop}

theorem Closed.setR8 (hP : Closed P) {s : State} (h : P s) (r : Reg8) (v : Byte) : P (s.setR8 r v) :=
  hP.regs s _ h (by simp)
theorem Closed.setR16 (hP : Closed P) {s : State} (h : P s) (rr : Reg16) (v : Word) : P (s.setR16 rr v) :=
  hP.regs s _ h (by simp)
theorem Closed.setF (hP : Closed P) {s : State} (h : P s) {f : Byte} (hf : f &&& 0x0F = 0) : P (s.setF f) :=
  hP.regs s _ h (fun _ => hf)
theorem Closed.setSp (hP : Closed P) {s : State} (h : P s) (v : Word) : P (s.setSp v) := hP.regs s _ h (fun e => e)
theorem Closed.setPc (hP : Closed P) {s : State} (h : P s) (v : Word) : P (s.setPc v) := hP.regs s _ h (fun e => e)
theorem Closed.setAF (hP : Closed P) {s : State} (h : P s) (x : AluResult) : P (s.setAF x) :=
  hP.setF (hP.setR8 h _ _) (AluResult.flags_low _)
theorem Closed.push16 (hP : Closed P) {s : State} (h : P s) (v : Word) : P (push16 s v) :=
  hP.write _ _ _ (hP.setSp (hP.write _ _ _ (hP.setSp h _)) _)
theorem Closed.callTo (hP : Closed P) {s : State} (h : P s) (v : Word) : P (callTo v s) := hP.setPc (hP.push16 h _) _
theorem Closed.returnPop (hP : Closed P) {s : State} (h : P s) : P (returnPop s) := hP.setPc (hP.setSp h _) _
theorem Closed.modifyHl (hP : Closed P) {s : State} (h : P s) (f : Byte → AluResult) : P (modifyHl f s) :=
  hP.setF (hP.write _ _ _ h) (AluResult.flags_low _)
theorem Closed.modifyR8 (hP : Closed P) {s : State} (h : P s) (r : Reg8) (f : Byte → AluResult) : P (modifyR8 r f s) :=
  hP.setF (hP.setR8 h _ _) (AluResult.flags_low _)
theorem Closed.raiseIllegal (hP : Closed P) {s t : State} (h : P s) {op : Byte} (e : raiseIllegal op s = .next t) :
    P t := by
  injection e with e
  subst e
  exact hP.report _ _ (hP.run _ _ (hP.setPc h _))
theorem Closed.dispatchIrq (hP : Closed P) (hq : ∀ s v, P s → P { s with ifReg := v }) {s : State} (h : P s) (q : Irq) :
    P (dispatchIrq q s) :=
  hP.tick _ _ (hP.setPc (hP.push16 (hP.ei _ _ (hP.ime _ _ (hq _ _ h))) _) _)

/-- An instruction keeps what its parts keep. -/
theorem Closed.exec (hP : Closed P) {i : Instr} {s t : State} (h : P s) (e : exec i s = .next t) : P t := by
  have fin : ∀ n u, P u → finish n u = .next t → P t := by
    intro n u hu e
    rw [finish_next] at e
    subst e
    exact hP.tick _ _ hu
  have wr : ∀ a v, P (memWrite s a v) := fun a v => hP.write _ _ _ h
  cases i
  case stop => exact fin _ _ (hP.run _ _ h) e
  case jpCcNn => simp only [Machine.exec, execJpCcNn] at e; split at e; exacts [fin _ _ (hP.setPc h _) e, fin _ _ h e]
  case jrCcE => simp only [Machine.exec, execJrCcE] at e; split at e; exacts [fin _ _ (hP.setPc h _) e, fin _ _ h e]
  case callCcNn => simp only [Machine.exec, execCallCcNn] at e; split at e; exacts [fin _ _ (hP.callTo h _) e, fin _ _ h e]
  case retCc => simp only [Machine.exec, execRetCc] at e; split at e; exacts [fin _ _ (hP.returnPop h) e, fin _ _ h e]
  case reti => exact fin _ _ (hP.ime _ _ (hP.returnPop h)) e
  case ret => exact fin _ _ (hP.returnPop h) e
  case callNn => exact fin _ _ (hP.callTo h _) e
  case rst => exact fin _ _ (hP.callTo h _) e
  case jpNn => exact fin _ _ (hP.setPc h _) e
  case jpHl => exact fin _ _ (hP.setPc h _) e
  case jrE => exact fin _ _ (hP.setPc h _) e
  case nop => exact fin _ _ h e
  case halt => exact fin _ _ (hP.run _ _ h) e
  case di => exact fin _ _ (hP.ei _ _ (hP.ime _ _ h)) e
  case ei => exact fin _ _ (hP.ei _ _ h) e
  case popAf => exact fin _ _ (hP.setF (hP.setR8 (hP.setSp h _) _ _) (and_F0_low _)) e
  case popRr => exact fin _ _ (hP.setR16 (hP.setSp h _) _ _) e
  case pushRr => exact fin _ _ (hP.push16 h _) e
  case pushAf => exact fin _ _ (hP.push16 h _) e
  case prefixCb op2 =>
    simp only [Machine.exec, execPrefixCb] at e
    split at e
    · split at e
      · split at e <;> exact fin _ _ (hP.modifyR8 h _ _) e
      · exact fin _ _ (hP.setF h (bitFlags_low _ _ _)) e
      · exact fin _ _ (hP.setR8 h _ _) e
      · exact fin _ _ (hP.setR8 h _ _) e
    · split at e
      · split at e <;> exact fin _ _ (hP.modifyHl h _) e
      · exact fin _ _ (hP.setF h (bitFlags_low _ _ _)) e
      · exact fin _ _ (wr _ _) e
      · exact fin _ _ (wr _ _) e
  case ldRR => exact fin _ _ (hP.setR8 h _ _) e
  case ldRN => exact fin _ _ (hP.setR8 h _ _) e
  case ldRHl => exact fin _ _ (hP.setR8 h _ _) e
  case ldABc => exact fin _ _ (hP.setR8 h _ _) e
  case ldADe => exact fin _ _ (hP.setR8 h _ _) e
  case ldANn => exact fin _ _ (hP.setR8 h _ _) e
  case ldhAC => exact fin _ _ (hP.setR8 h _ _) e
  case ldhAN => exact fin _ _ (hP.setR8 h _ _) e
  case resR => exact fin _ _ (hP.setR8 h _ _) e
  case setR => exact fin _ _ (hP.setR8 h _ _) e
  case ldHlR => exact fin _ _ (wr _ _) e
  case ldHlN => exact fin _ _ (wr _ _) e
  case ldBcA => exact fin _ _ (wr _ _) e
  case ldDeA => exact fin _ _ (wr _ _) e
  case ldNnA => exact fin _ _ (wr _ _) e
  case ldhCA => exact fin _ _ (wr _ _) e
  case ldhNA => exact fin _ _ (wr _ _) e
  case resHl => exact fin _ _ (wr _ _) e
  case setHl => exact fin _ _ (wr _ _) e
  case ldAHlDec => exact fin _ _ (hP.setR16 (hP.setR8 h _ _) _ _) e
  case ldAHlInc => exact fin _ _ (hP.setR16 (hP.setR8 h _ _) _ _) e
  case ldHlDecA => exact fin _ _ (hP.setR16 (wr _ _) _ _) e
  case ldHlIncA => exact fin _ _ (hP.setR16 (wr _ _) _ _) e
  case ldRrNn => exact fin _ _ (hP.setR16 h _ _) e
  case incRr => exact fin _ _ (hP.setR16 h _ _) e
  case decRr => exact fin _ _ (hP.setR16 h _ _) e
  case ldNnSp => exact fin _ _ (hP.write _ _ _ (wr _ _)) e
  case ldSpHl => exact fin _ _ (hP.setSp h _) e
  case ldHlSpE => exact fin _ _ (hP.setF (hP.setR16 h _ _) (mkF_low _ _ _ _)) e
  case addHlRr => exact fin _ _ (hP.setF (hP.setR16 h _ _) (mkF_low _ _ _ _)) e
  case addSpE => exact fin _ _ (hP.setF (hP.setSp h _) (mkF_low _ _ _ _)) e
  case addR => exact fin _ _ (hP.setAF h _) e
  case addHl => exact fin _ _ (hP.setAF h _) e
  case addN => exact fin _ _ (hP.setAF h _) e
  case adcR => exact fin _ _ (hP.setAF h _) e
  case adcHl => exact fin _ _ (hP.setAF h _) e
  case adcN => exact fin _ _ (hP.setAF h _) e
  case subR => exact fin _ _ (hP.setAF h _) e
  case subHl => exact fin _ _ (hP.setAF h _) e
  case subN => exact fin _ _ (hP.setAF h _) e
  case sbcR => exact fin _ _ (hP.setAF h _) e
  case sbcHl => exact fin _ _ (hP.setAF h _) e
  case sbcN => exact fin _ _ (hP.setAF h _) e
  case andR => exact fin _ _ (hP.setAF h _) e
  case andHl => exact fin _ _ (hP.setAF h _) e
  case andN => exact fin _ _ (hP.setAF h _) e
  case xorR => exact fin _ _ (hP.setAF h _) e
  case xorHl => exact fin _ _ (hP.setAF h _) e
  case xorN => exact fin _ _ (hP.setAF h _) e
  case orR => exact fin _ _ (hP.setAF h _) e
  case orHl => exact fin _ _ (hP.setAF h _) e
  case orN => exact fin _ _ (hP.setAF h _) e
  case cpR => exact fin _ _ (hP.setF h (AluResult.flags_low _)) e
  case cpHl => exact fin _ _ (hP.setF h (AluResult.flags_low _)) e
  case cpN => exact fin _ _ (hP.setF h (AluResult.flags_low _)) e
  case daa => exact fin _ _ (hP.setAF h _) e
  case cpl => exact fin _ _ (hP.setF (hP.setR8 h _ _) (mkF_low _ _ _ _)) e
  case scf => exact fin _ _ (hP.setF h (mkF_low _ _ _ _)) e
  case ccf => exact fin _ _ (hP.setF h (mkF_low _ _ _ _)) e
  case incR => exact fin _ _ (hP.modifyR8 h _ _) e
  case decR => exact fin _ _ (hP.modifyR8 h _ _) e
  case incHl => exact fin _ _ (hP.modifyHl h _) e
  case decHl => exact fin _ _ (hP.modifyHl h _) e
  case rlca => exact fin _ _ (hP.setAF h _) e
  case rrca => exact fin _ _ (hP.setAF h _) e
  case rla => exact fin _ _ (hP.setAF h _) e
  case rra => exact fin _ _ (hP.setAF h _) e
  case rlcR => exact fin _ _ (hP.modifyR8 h _ _) e
  case rlcHl => exact fin _ _ (hP.modifyHl h _) e
  case rrcR => exact fin _ _ (hP.modifyR8 h _ _) e
  case rrcHl => exact fin _ _ (hP.modifyHl h _) e
  case rlR => exact fin _ _ (hP.modifyR8 h _ _) e
  case rlHl => exact fin _ _ (hP.modifyHl h _) e
  case rrR => exact fin _ _ (hP.modifyR8 h _ _) e
  case rrHl => exact fin _ _ (hP.modifyHl h _) e
  case slaR => exact fin _ _ (hP.modifyR8 h _ _) e
  case slaHl => exact fin _ _ (hP.modifyHl h _) e
  case sraR => exact fin _ _ (hP.modifyR8 h _ _) e
  case sraHl => exact fin _ _ (hP.modifyHl h _) e
  case swapR => exact fin _ _ (hP.modifyR8 h _ _) e
  case swapHl => exact fin _ _ (hP.modifyHl h _) e
  case srlR => exact fin _ _ (hP.modifyR8 h _ _) e
  case srlHl => exact fin _ _ (hP.modifyHl h _) e
  case bitR => exact fin _ _ (hP.setF h (bitFlags_low _ _ _)) e
  case bitHl => exact fin _ _ (hP.setF h (bitFlags_low _ _ _)) e
  case illegalD3 => exact hP.raiseIllegal h e
  case illegalDB => exact hP.raiseIllegal h e
  case illegalDD => exact hP.raiseIllegal h e
  case illegalE3 => exact hP.raiseIllegal h e
  case illegalE4 => exact hP.raiseIllegal h e
  case illegalEB => exact hP.raiseIllegal h e
  case illegalEC => exact hP.raiseIllegal h e
  case illegalED => exact hP.raiseIllegal h e
  case illegalF4 => exact hP.raiseIllegal h e
  case illegalFC => exact hP.raiseIllegal h e
  case illegalFD => exact hP.raiseIllegal h e

end Sys2Proof.Machine
end

