-- ==== Sys2Proof/Laws/PerInstr.lean ====
section
/-! SUPPORT. The family `EncodeLength`: the encoder gives as many bytes as the instruction's length says, one lemma per
constructor. -/

namespace Sys2Proof.Laws.EncodeLength

/-- The encoding of `i` is as long as its length (`30_encoding.md` rules R200 to R213). -/
def Statement (i : Instr) : Prop := (encode i).length = i.length

theorem ldRR (dst : Reg8) (src : Reg8) : Statement (.ldRR dst src) := rfl
theorem ldRN (dst : Reg8) (n : Byte) : Statement (.ldRN dst n) := rfl
theorem ldRHl (dst : Reg8) : Statement (.ldRHl dst) := rfl
theorem ldHlR (r : Reg8) : Statement (.ldHlR r) := rfl
theorem ldHlN (n : Byte) : Statement (.ldHlN n) := rfl
theorem ldABc : Statement (.ldABc) := rfl
theorem ldADe : Statement (.ldADe) := rfl
theorem ldBcA : Statement (.ldBcA) := rfl
theorem ldDeA : Statement (.ldDeA) := rfl
theorem ldANn (nn : Word) : Statement (.ldANn nn) := rfl
theorem ldNnA (nn : Word) : Statement (.ldNnA nn) := rfl
theorem ldhAC : Statement (.ldhAC) := rfl
theorem ldhCA : Statement (.ldhCA) := rfl
theorem ldhAN (n : Byte) : Statement (.ldhAN n) := rfl
theorem ldhNA (n : Byte) : Statement (.ldhNA n) := rfl
theorem ldAHlDec : Statement (.ldAHlDec) := rfl
theorem ldHlDecA : Statement (.ldHlDecA) := rfl
theorem ldAHlInc : Statement (.ldAHlInc) := rfl
theorem ldHlIncA : Statement (.ldHlIncA) := rfl
theorem ldRrNn (rr : Reg16) (nn : Word) : Statement (.ldRrNn rr nn) := rfl
theorem ldNnSp (nn : Word) : Statement (.ldNnSp nn) := rfl
theorem ldSpHl : Statement (.ldSpHl) := rfl
theorem ldHlSpE (e : Byte) : Statement (.ldHlSpE e) := rfl
theorem pushRr (rr : PairReg) : Statement (.pushRr rr) := rfl
theorem pushAf : Statement (.pushAf) := rfl
theorem popRr (rr : PairReg) : Statement (.popRr rr) := rfl
theorem popAf : Statement (.popAf) := rfl
theorem addR (r : Reg8) : Statement (.addR r) := rfl
theorem addHl : Statement (.addHl) := rfl
theorem addN (n : Byte) : Statement (.addN n) := rfl
theorem adcR (r : Reg8) : Statement (.adcR r) := rfl
theorem adcHl : Statement (.adcHl) := rfl
theorem adcN (n : Byte) : Statement (.adcN n) := rfl
theorem subR (r : Reg8) : Statement (.subR r) := rfl
theorem subHl : Statement (.subHl) := rfl
theorem subN (n : Byte) : Statement (.subN n) := rfl
theorem sbcR (r : Reg8) : Statement (.sbcR r) := rfl
theorem sbcHl : Statement (.sbcHl) := rfl
theorem sbcN (n : Byte) : Statement (.sbcN n) := rfl
theorem andR (r : Reg8) : Statement (.andR r) := rfl
theorem andHl : Statement (.andHl) := rfl
theorem andN (n : Byte) : Statement (.andN n) := rfl
theorem xorR (r : Reg8) : Statement (.xorR r) := rfl
theorem xorHl : Statement (.xorHl) := rfl
theorem xorN (n : Byte) : Statement (.xorN n) := rfl
theorem orR (r : Reg8) : Statement (.orR r) := rfl
theorem orHl : Statement (.orHl) := rfl
theorem orN (n : Byte) : Statement (.orN n) := rfl
theorem cpR (r : Reg8) : Statement (.cpR r) := rfl
theorem cpHl : Statement (.cpHl) := rfl
theorem cpN (n : Byte) : Statement (.cpN n) := rfl
theorem incR (r : Reg8) : Statement (.incR r) := rfl
theorem incHl : Statement (.incHl) := rfl
theorem decR (r : Reg8) : Statement (.decR r) := rfl
theorem decHl : Statement (.decHl) := rfl
theorem daa : Statement (.daa) := rfl
theorem cpl : Statement (.cpl) := rfl
theorem scf : Statement (.scf) := rfl
theorem ccf : Statement (.ccf) := rfl
theorem addHlRr (rr : Reg16) : Statement (.addHlRr rr) := rfl
theorem incRr (rr : Reg16) : Statement (.incRr rr) := rfl
theorem decRr (rr : Reg16) : Statement (.decRr rr) := rfl
theorem addSpE (e : Byte) : Statement (.addSpE e) := rfl
theorem rlca : Statement (.rlca) := rfl
theorem rrca : Statement (.rrca) := rfl
theorem rla : Statement (.rla) := rfl
theorem rra : Statement (.rra) := rfl
theorem rlcR (r : Reg8) : Statement (.rlcR r) := rfl
theorem rlcHl : Statement (.rlcHl) := rfl
theorem rrcR (r : Reg8) : Statement (.rrcR r) := rfl
theorem rrcHl : Statement (.rrcHl) := rfl
theorem rlR (r : Reg8) : Statement (.rlR r) := rfl
theorem rlHl : Statement (.rlHl) := rfl
theorem rrR (r : Reg8) : Statement (.rrR r) := rfl
theorem rrHl : Statement (.rrHl) := rfl
theorem slaR (r : Reg8) : Statement (.slaR r) := rfl
theorem slaHl : Statement (.slaHl) := rfl
theorem sraR (r : Reg8) : Statement (.sraR r) := rfl
theorem sraHl : Statement (.sraHl) := rfl
theorem swapR (r : Reg8) : Statement (.swapR r) := rfl
theorem swapHl : Statement (.swapHl) := rfl
theorem srlR (r : Reg8) : Statement (.srlR r) := rfl
theorem srlHl : Statement (.srlHl) := rfl
theorem bitR (b : BitNo) (r : Reg8) : Statement (.bitR b r) := rfl
theorem bitHl (b : BitNo) : Statement (.bitHl b) := rfl
theorem resR (b : BitNo) (r : Reg8) : Statement (.resR b r) := rfl
theorem resHl (b : BitNo) : Statement (.resHl b) := rfl
theorem setR (b : BitNo) (r : Reg8) : Statement (.setR b r) := rfl
theorem setHl (b : BitNo) : Statement (.setHl b) := rfl
theorem jpNn (nn : Word) : Statement (.jpNn nn) := rfl
theorem jpCcNn (cc : Cond) (nn : Word) : Statement (.jpCcNn cc nn) := rfl
theorem jpHl : Statement (.jpHl) := rfl
theorem jrE (e : Byte) : Statement (.jrE e) := rfl
theorem jrCcE (cc : Cond) (e : Byte) : Statement (.jrCcE cc e) := rfl
theorem callNn (nn : Word) : Statement (.callNn nn) := rfl
theorem callCcNn (cc : Cond) (nn : Word) : Statement (.callCcNn cc nn) := rfl
theorem ret : Statement (.ret) := rfl
theorem retCc (cc : Cond) : Statement (.retCc cc) := rfl
theorem reti : Statement (.reti) := rfl
theorem rst (t : RstNo) : Statement (.rst t) := rfl
theorem nop : Statement (.nop) := rfl
theorem halt : Statement (.halt) := rfl
theorem stop (pad : Byte) : Statement (.stop pad) := rfl
theorem di : Statement (.di) := rfl
theorem ei : Statement (.ei) := rfl
theorem prefixCb (op2 : Byte) : Statement (.prefixCb op2) := rfl
theorem illegalD3 : Statement (.illegalD3) := rfl
theorem illegalDB : Statement (.illegalDB) := rfl
theorem illegalDD : Statement (.illegalDD) := rfl
theorem illegalE3 : Statement (.illegalE3) := rfl
theorem illegalE4 : Statement (.illegalE4) := rfl
theorem illegalEB : Statement (.illegalEB) := rfl
theorem illegalEC : Statement (.illegalEC) := rfl
theorem illegalED : Statement (.illegalED) := rfl
theorem illegalF4 : Statement (.illegalF4) := rfl
theorem illegalFC : Statement (.illegalFC) := rfl
theorem illegalFD : Statement (.illegalFD) := rfl

end Sys2Proof.Laws.EncodeLength
end

