-- ==== Sys2Proof/Laws/Step.lean ====
section
/-! SUPPORT. What one step can do: the inversion of the CPU step, what the two devices change, and the rule that carries a
property over a step. -/

namespace Sys2Proof.Machine

/-! ## The devices -/

theorem State.requestIf_eq (b : Bool) (q : Irq) (s : State) :
    s.requestIf b q = { s with ifReg := (s.requestIf b q).ifReg } := by
  cases b <;> rfl

@[simp] theorem State.requestIf_lcd (b : Bool) (q : Irq) (s : State) : (s.requestIf b q).lcd = s.lcd := by
  cases b <;> rfl
@[simp] theorem State.requestIf_ppu (b : Bool) (q : Irq) (s : State) : (s.requestIf b q).ppu = s.ppu := by
  cases b <;> rfl
@[simp] theorem State.requestIf_ram (b : Bool) (q : Irq) (s : State) : (s.requestIf b q).ram = s.ram := by
  cases b <;> rfl
@[simp] theorem State.requestIf_cart (b : Bool) (q : Irq) (s : State) : (s.requestIf b q).cart = s.cart := by
  cases b <;> rfl
@[simp] theorem State.requestIf_mbc (b : Bool) (q : Irq) (s : State) : (s.requestIf b q).mbc = s.mbc := by
  cases b <;> rfl
@[simp] theorem State.requestIf_timer (b : Bool) (q : Irq) (s : State) : (s.requestIf b q).timer = s.timer := by
  cases b <;> rfl

/-- All that a timer cycle changes: the timer's registers and IF. -/
theorem timerCycle_eq (s : State) :
    timerCycle s = { s with timer := (timerCycle s).timer, ifReg := (timerCycle s).ifReg } := by
  simp only [timerCycle, timaIncrement]
  split
  · split <;> rfl
  · rfl

/-- All that the timer's advance changes. -/
theorem timerAdvance_eq (c : Nat) (s : State) :
    timerAdvance c s = { s with timer := (timerAdvance c s).timer, ifReg := (timerAdvance c s).ifReg } := by
  induction c generalizing s with
  | zero => rfl
  | succ c ih =>
    rw [timerAdvance, ih, timerCycle_eq s]

theorem enterHBlank_eq (s : State) :
    enterHBlank s = { s with ifReg := (enterHBlank s).ifReg, ppu := (enterHBlank s).ppu } := by
  simp only [enterHBlank, State.requestIf]
  split <;> rfl

theorem enterVBlank_eq (s : State) :
    enterVBlank s = { s with ifReg := (enterVBlank s).ifReg, ppu := (enterVBlank s).ppu } := by
  simp only [enterVBlank, State.requestIf]
  split <;> rfl

theorem enterOamScan_eq (s : State) :
    enterOamScan s = { s with ifReg := (enterOamScan s).ifReg, ppu := (enterOamScan s).ppu } := by
  simp only [enterOamScan, State.requestIf]
  split <;> rfl

theorem lycCheck_eq (s : State) : lycCheck s = { s with ifReg := (lycCheck s).ifReg } := by
  simp only [lycCheck, State.requestIf]
  split <;> rfl

/-- All that a dot changes: LY, the PPU's state and IF. -/
theorem ppuDot_eq (s : State) :
    ppuDot s =
      { s with lcd.ly := (ppuDot s).lcd.ly, ifReg := (ppuDot s).ifReg, ppu := (ppuDot s).ppu } := by
  simp only [ppuDot]
  split
  · split
    · rfl
    · split
      · rw [enterHBlank_eq]
      · split
        · simp only [endVisibleLine]
          rw [lycCheck_eq]
          split
          · rw [enterVBlank_eq]
          · rw [enterOamScan_eq]
        · rfl
  · split
    · simp only [endBlankLine]
      rw [lycCheck_eq]
      split
      · rw [enterOamScan_eq]
      · rfl
    · rfl

/-- All that `c` dots change. -/
theorem ppuDots_eq (c : Nat) (s : State) :
    ppuDots c s =
      { s with lcd.ly := (ppuDots c s).lcd.ly, ifReg := (ppuDots c s).ifReg, ppu := (ppuDots c s).ppu } := by
  induction c generalizing s with
  | zero => rfl
  | succ c ih => rw [ppuDots, ih, ppuDot_eq s]

theorem ppuAdvance_eq (c : Nat) (s : State) :
    ppuAdvance c s =
      { s with lcd.ly := (ppuAdvance c s).lcd.ly, ifReg := (ppuAdvance c s).ifReg, ppu := (ppuAdvance c s).ppu } := by
  unfold ppuAdvance
  split
  · exact ppuDots_eq c s
  · rfl

/-- All that the devices change: the timer's registers, IF, LY and the PPU's state. -/
theorem advanceDevices_eq (s : State) :
    advanceDevices s =
      { s with
        timer := (advanceDevices s).timer, ifReg := (advanceDevices s).ifReg, lcd.ly := (advanceDevices s).lcd.ly
        ppu := (advanceDevices s).ppu } := by
  unfold advanceDevices
  split
  · rw [ppuAdvance_eq, timerAdvance_eq]
  · rfl

@[simp] theorem advanceDevices_params (s : State) : (advanceDevices s).params = s.params := by rw [advanceDevices_eq]
@[simp] theorem advanceDevices_regs (s : State) : (advanceDevices s).regs = s.regs := by rw [advanceDevices_eq]
@[simp] theorem advanceDevices_ime (s : State) : (advanceDevices s).ime = s.ime := by rw [advanceDevices_eq]
@[simp] theorem advanceDevices_eiPending (s : State) : (advanceDevices s).eiPending = s.eiPending := by
  rw [advanceDevices_eq]
@[simp] theorem advanceDevices_run (s : State) : (advanceDevices s).run = s.run := by rw [advanceDevices_eq]
@[simp] theorem advanceDevices_cycles (s : State) : (advanceDevices s).cycles = s.cycles := by rw [advanceDevices_eq]
@[simp] theorem advanceDevices_report (s : State) : (advanceDevices s).report = s.report := by rw [advanceDevices_eq]
@[simp] theorem advanceDevices_ie (s : State) : (advanceDevices s).ie = s.ie := by rw [advanceDevices_eq]
@[simp] theorem advanceDevices_ram (s : State) : (advanceDevices s).ram = s.ram := by rw [advanceDevices_eq]
@[simp] theorem advanceDevices_cart (s : State) : (advanceDevices s).cart = s.cart := by rw [advanceDevices_eq]
@[simp] theorem advanceDevices_mbc (s : State) : (advanceDevices s).mbc = s.mbc := by rw [advanceDevices_eq]
@[simp] theorem advanceDevices_driver (s : State) : (advanceDevices s).driver = s.driver := by rw [advanceDevices_eq]

/-- What a timer cycle and a dot with the LCD on keep, the devices keep. -/
theorem advanceDevices_keeps {P : State → Prop} (ht : ∀ s, P s → P (timerCycle s))
    (hp : ∀ s, s.lcdOn = true → P s → P (ppuDot s)) {s : State} (h : P s) : P (advanceDevices s) := by
  have timer : ∀ c s, P s → P (timerAdvance c s) := by
    intro c
    induction c with
    | zero => exact fun s h => h
    | succ c ih => exact fun s h => ih _ (ht s h)
  have dots : ∀ c s, s.lcdOn = true → P s → P (ppuDots c s) := by
    intro c
    induction c with
    | zero => exact fun s _ h => h
    | succ c ih =>
      intro s on h
      refine ih _ ?_ (hp s on h)
      rw [ppuDot_eq]
      exact on
  unfold advanceDevices
  split
  · unfold ppuAdvance
    split
    · exact dots _ _ ‹_› (timer _ _ h)
    · exact timer _ _ h
  · exact h

/-! ## The CPU step -/

theorem State.setRun_self {s : State} {r : RunState} (h : s.run = r) : s.setRun r = s := by
  subst h
  rfl

/-- The two ways to reach line 4 of the step rule. -/
def Awake (s : State) : Prop := s.run = .running ∨ (s.run = .halted ∧ s.pending ≠ 0)

/-- Everything a CPU step can do when it gives a next state. -/
theorem cpuStep_cases {s t : State} (h : cpuStep s = .next t) :
    (s.run = .stopped ∧ t = s.tick 0) ∨
    (s.run = .halted ∧ s.pending = 0 ∧ t = s.tick s.params.haltTick) ∨
    (Awake s ∧ ∃ q, irqToTake s = some q ∧ t = dispatchIrq q (s.setRun .running)) ∨
    (Awake s ∧ irqToTake s = none ∧
      exec (fetchedInstr s) (pcPast (fetchedInstr s) (promoteEi (s.setRun .running))) = .next t) := by
  have key : ∀ u, u = s.setRun .running → dispatchOrExecute u = .next t →
      (∃ q, irqToTake s = some q ∧ t = dispatchIrq q u) ∨
      (irqToTake s = none ∧ exec (fetchedInstr s) (pcPast (fetchedInstr s) (promoteEi u)) = .next t) := by
    rintro u rfl e
    have e1 : irqToTake (s.setRun .running) = irqToTake s := rfl
    have e2 : fetchedInstr (promoteEi (s.setRun .running)) = fetchedInstr s := by unfold promoteEi; split <;> rfl
    unfold dispatchOrExecute at e
    rw [e1] at e
    cases hq : irqToTake s with
    | some q =>
      rw [hq] at e
      injection e with e
      exact .inl ⟨q, rfl, e.symm⟩
    | none =>
      rw [hq] at e
      simp only [fetchExecute, e2] at e
      exact .inr ⟨rfl, e⟩
  unfold cpuStep at h
  cases hr : s.run with
  | faulted o p => rw [hr] at h; cases h
  | stopped =>
    rw [hr] at h
    injection h with h
    exact .inl ⟨rfl, h.symm⟩
  | halted =>
    rw [hr] at h
    simp only at h
    split at h
    · injection h with h
      exact .inr (.inl ⟨rfl, ‹_›, h.symm⟩)
    · rename_i hp
      rcases key _ rfl h with ⟨q, hq, e⟩ | ⟨hq, e⟩
      · exact .inr (.inr (.inl ⟨.inr ⟨hr, hp⟩, q, hq, e⟩))
      · exact .inr (.inr (.inr ⟨.inr ⟨hr, hp⟩, hq, e⟩))
  | running =>
    rw [hr] at h
    rcases key s (State.setRun_self hr).symm h with ⟨q, hq, e⟩ | ⟨hq, e⟩
    · exact .inr (.inr (.inl ⟨.inl hr, q, hq, by rw [State.setRun_self hr]; exact e⟩))
    · exact .inr (.inr (.inr ⟨.inl hr, hq, by rw [State.setRun_self hr]; exact e⟩))

/-- A step is a CPU step and the devices' advance. -/
theorem step_cases {s t : State} (h : step s = .next t) : ∃ u, cpuStep s = .next u ∧ t = advanceDevices u := by
  unfold step iteration at h
  split at h
  · rename_i u e
    injection h with h
    exact ⟨u, e, h.symm⟩
  · cases h
  · cases h

/-! ## A property that a step keeps -/

/-- What the parts of a meaning, a write of IF, a timer cycle and a dot with the LCD on keep, a step keeps. -/
theorem Closed.step {P : State → Prop} (hP : Closed P) (hq : ∀ s v, P s → P { s with ifReg := v })
    (ht : ∀ s, P s → P (timerCycle s)) (hp : ∀ s, s.lcdOn = true → P s → P (ppuDot s)) {s t : State} (h : P s)
    (hs : step s = .next t) : P t := by
  obtain ⟨u, e, rfl⟩ := step_cases hs
  refine advanceDevices_keeps ht hp ?_
  rcases cpuStep_cases e with ⟨-, rfl⟩ | ⟨-, -, rfl⟩ | ⟨-, q, -, rfl⟩ | ⟨-, -, e⟩
  · exact hP.tick _ _ h
  · exact hP.tick _ _ h
  · exact hP.dispatchIrq hq (hP.run _ _ h) q
  · refine hP.exec (hP.setPc ?_ _) e
    unfold promoteEi
    split
    · exact hP.ei _ _ (hP.ime _ _ (hP.run _ _ h))
    · exact hP.run _ _ h

end Sys2Proof.Machine
end

