-- ==== Sys2Proof/Tests/Slice0.lean ====
section
/-! SUPPORT. Tests. The expected values are the spec's: encodings from `spec/opcode_table.json`, results from the tables of
`95_test_vectors.md`, or by hand from the rule named. Each runs one step on a small state. The last part gives, for every
statement with hypotheses, states and operands that meet them. -/

namespace Sys2Proof.Tests

set_option Elab.async false

open Sys2Proof Sys2Proof.Machine

/-! ## Helpers -/

/-- A cartridge with no banking that holds `bytes` from 0x0100 on and zero elsewhere, as the vectors' conventions say. -/
def cartWith (bytes : List Byte) : Cartridge := { blankCartridge with image.bytes := Memory.ofBytes 0x100 bytes }

/-- The vectors' start state: after reset, with the LCD off. -/
def start (bytes : List Byte) : State :=
  { resetState Params.default (some (cartWith bytes)) with lcd.lcdc := 0x11 }

/-- One step of `s` gives a next state that satisfies `p`. -/
def gives (s : State) (p : State → Bool) : Bool :=
  match step s with
  | .next t => p t
  | .fault _ => false
  | .refused _ => false

/-- One step of the start state, adjusted by `f`. -/
def ran (bytes : List Byte) (f : State → State) (p : State → Bool) : Bool := gives (f (start bytes)) p

/-- The instruction `i` gives a next state that satisfies `p`. -/
def execGives (i : Instr) (s : State) (p : State → Bool) : Bool :=
  match exec i s with
  | .next t => p t
  | .fault _ => false
  | .refused _ => false

/-- A test of a step is a next state. -/
theorem of_gives {s : State} {p : State → Bool} (h : gives s p = true) : ∃ t, step s = .next t ∧ p t = true := by
  unfold gives at h
  split at h
  · exact ⟨_, ‹_›, h⟩
  · cases h
  · cases h

/-- A test of an instruction is a next state. -/
theorem of_execGives {i : Instr} {s : State} {p : State → Bool} (h : execGives i s p = true) :
    ∃ t, exec i s = .next t ∧ p t = true := by
  unfold execGives at h
  split at h
  · exact ⟨_, ‹_›, h⟩
  · cases h
  · cases h

/-- Each list of bytes decodes to its instruction, with nothing left over. -/
def decodesAll (rows : List (List Byte × Instr)) : Bool :=
  rows.all (fun row => match decode row.1 with | .ok (i, []) => i == row.2 | _ => false)

/-! ## Well-formedness -/

/-- The one ill-formed kind of term, the prefix byte with its second byte unread, is refused, and no bytes decode to it. -/
theorem test_prefix_is_not_well_formed :
    (Instr.prefixCb 0x00).wellFormed = false ∧ (Instr.prefixCb 0xFF).wellFormed = false ∧
      decode [0xCB, 0x00] ≠ .ok (.prefixCb 0x00, []) := by
  refine ⟨rfl, rfl, ?_⟩
  intro h
  injection h with h
  injection h with h
  cases h

/-! ## Decoding, one word per row of the opcode table, its bits as the row's `encoding` gives them -/

theorem test_decode_load8 : decodesAll [
     ([0b01101111], .ldRR .l .a),
     ([0b00111110, 0b10000001], .ldRN .a 0x81),
     ([0b01000110], .ldRHl .b),
     ([0b01110000], .ldHlR .b),
     ([0b00110110, 0b10000001], .ldHlN 0x81),
     ([0b00001010], .ldABc),
     ([0b00011010], .ldADe),
     ([0b00000010], .ldBcA),
     ([0b00010010], .ldDeA),
     ([0b11111010, 0b00110100, 0b00010010], .ldANn 0x1234),
     ([0b11101010, 0b00110100, 0b00010010], .ldNnA 0x1234),
     ([0b11110010], .ldhAC),
     ([0b11100010], .ldhCA),
     ([0b11110000, 0b10000001], .ldhAN 0x81),
     ([0b11100000, 0b10000001], .ldhNA 0x81),
     ([0b00111010], .ldAHlDec),
     ([0b00110010], .ldHlDecA),
     ([0b00101010], .ldAHlInc),
     ([0b00100010], .ldHlIncA)] = true := by decide

theorem test_decode_load16 : decodesAll [
     ([0b00010001, 0b00110100, 0b00010010], .ldRrNn .de 0x1234),
     ([0b00001000, 0b00110100, 0b00010010], .ldNnSp 0x1234),
     ([0b11111001], .ldSpHl),
     ([0b11111000, 0b10000001], .ldHlSpE 0x81),
     ([0b11100101], .pushRr .hl),
     ([0b11110101], .pushAf),
     ([0b11000001], .popRr .bc),
     ([0b11110001], .popAf)] = true := by decide

theorem test_decode_alu8_accumulator : decodesAll [
     ([0b10000001], .addR .c),
     ([0b10000110], .addHl),
     ([0b11000110, 0b10000001], .addN 0x81),
     ([0b10001010], .adcR .d),
     ([0b10001110], .adcHl),
     ([0b11001110, 0b10000001], .adcN 0x81),
     ([0b10010011], .subR .e),
     ([0b10010110], .subHl),
     ([0b11010110, 0b10000001], .subN 0x81),
     ([0b10011100], .sbcR .h),
     ([0b10011110], .sbcHl),
     ([0b11011110, 0b10000001], .sbcN 0x81),
     ([0b10100101], .andR .l),
     ([0b10100110], .andHl),
     ([0b11100110, 0b10000001], .andN 0x81),
     ([0b10101111], .xorR .a),
     ([0b10101110], .xorHl),
     ([0b11101110, 0b10000001], .xorN 0x81),
     ([0b10110000], .orR .b),
     ([0b10110110], .orHl),
     ([0b11110110, 0b10000001], .orN 0x81),
     ([0b10111001], .cpR .c),
     ([0b10111110], .cpHl),
     ([0b11111110, 0b10000001], .cpN 0x81)] = true := by decide

theorem test_decode_alu8_other : decodesAll [
     ([0b00001100], .incR .c),
     ([0b00110100], .incHl),
     ([0b00010101], .decR .d),
     ([0b00110101], .decHl),
     ([0b00100111], .daa),
     ([0b00101111], .cpl),
     ([0b00110111], .scf),
     ([0b00111111], .ccf)] = true := by decide

theorem test_decode_alu16 : decodesAll [
     ([0b00001001], .addHlRr .bc),
     ([0b00010011], .incRr .de),
     ([0b00101011], .decRr .hl),
     ([0b11101000, 0b10000001], .addSpE 0x81)] = true := by decide

theorem test_decode_rotate : decodesAll [
     ([0b00000111], .rlca),
     ([0b00001111], .rrca),
     ([0b00010111], .rla),
     ([0b00011111], .rra),
     ([0b11001011, 0b00000010], .rlcR .d),
     ([0b11001011, 0b00000110], .rlcHl),
     ([0b11001011, 0b00001011], .rrcR .e),
     ([0b11001011, 0b00001110], .rrcHl),
     ([0b11001011, 0b00010100], .rlR .h),
     ([0b11001011, 0b00010110], .rlHl),
     ([0b11001011, 0b00011101], .rrR .l),
     ([0b11001011, 0b00011110], .rrHl),
     ([0b11001011, 0b00100111], .slaR .a),
     ([0b11001011, 0b00100110], .slaHl),
     ([0b11001011, 0b00101000], .sraR .b),
     ([0b11001011, 0b00101110], .sraHl),
     ([0b11001011, 0b00110001], .swapR .c),
     ([0b11001011, 0b00110110], .swapHl),
     ([0b11001011, 0b00111010], .srlR .d),
     ([0b11001011, 0b00111110], .srlHl)] = true := by decide

theorem test_decode_bit : decodesAll [
     ([0b11001011, 0b01110011], .bitR 6 .e),
     ([0b11001011, 0b01111110], .bitHl 7),
     ([0b11001011, 0b10000100], .resR 0 .h),
     ([0b11001011, 0b10001110], .resHl 1),
     ([0b11001011, 0b11010101], .setR 2 .l),
     ([0b11001011, 0b11011110], .setHl 3)] = true := by decide

theorem test_decode_control : decodesAll [
     ([0b11000011, 0b00110100, 0b00010010], .jpNn 0x1234),
     ([0b11001010, 0b00110100, 0b00010010], .jpCcNn .z 0x1234),
     ([0b11101001], .jpHl),
     ([0b00011000, 0b10000001], .jrE 0x81),
     ([0b00110000, 0b10000001], .jrCcE .nc 0x81),
     ([0b11001101, 0b00110100, 0b00010010], .callNn 0x1234),
     ([0b11011100, 0b00110100, 0b00010010], .callCcNn .c 0x1234),
     ([0b11001001], .ret),
     ([0b11000000], .retCc .nz),
     ([0b11011001], .reti),
     ([0b11101111], .rst 5)] = true := by decide

theorem test_decode_system : decodesAll [
     ([0b00000000], .nop),
     ([0b01110110], .halt),
     ([0b00010000, 0b10000001], .stop 0x81),
     ([0b11110011], .di),
     ([0b11111011], .ei)] = true := by decide

theorem test_decode_undefined : decodesAll [
     ([0b11010011], .illegalD3),
     ([0b11011011], .illegalDB),
     ([0b11011101], .illegalDD),
     ([0b11100011], .illegalE3),
     ([0b11100100], .illegalE4),
     ([0b11101011], .illegalEB),
     ([0b11101100], .illegalEC),
     ([0b11101101], .illegalED),
     ([0b11110100], .illegalF4),
     ([0b11111100], .illegalFC),
     ([0b11111101], .illegalFD)] = true := by decide

theorem test_decode_truncated :
    (decode [], decode [0xC3], decode [0xC3, 0x50], decode [0xCB], decode [0x10]) =
      (.error .truncated, .error .truncated, .error .truncated, .error .truncated, .error .truncated) := rfl

/-- The host's numbering: the first byte is the least significant. -/
theorem test_decode_table_word :
    decodeTableWord 24 0x1234FA = some (.ldANn 0x1234) ∧ decodeTableWord 8 0x01 = some (.ldRrNn .bc 0) ∧
      decodeTableWord 16 0x46CB = some (.bitHl 0) := by decide +kernel

/-- The placed instruction is the one that the next step runs, from the state after reset. -/
theorem test_with_fetch_word :
    fetchedInstr (State.reset.withFetchWord 24 0x1234FA) = .ldANn 0x1234 ∧
      gives (State.reset.withFetchWord 8 0x04) (fun t => t.regs.b == 0x01 && t.regs.pc == 0x0101) = true := by
  decide +kernel

/-! ## One step per instruction -/

/-- `95_test_vectors.md`, 8-bit loads, row 3. -/
theorem test_ld_r_r : ran [0x65] (fun s => s)
    (fun t => t.regs.h == 0x4D && t.regs.l == 0x4D && t.regs.pc == 0x0101 &&
      t.cycles == 4) = true := by decide +kernel

/-- `95_test_vectors.md`, 8-bit loads, row 4. -/
theorem test_ld_r_n : ran [0x0E, 0xFF] (fun s => s)
    (fun t => t.regs.c == 0xFF && t.regs.pc == 0x0102 && t.cycles == 8) = true := by decide +kernel

/-- `95_test_vectors.md`, 8-bit loads, row 6. -/
theorem test_ld_r_hl : ran [0x6E] (fun s => { s with
      regs.h := 0xC0
      regs.l := 0x10
      ram.wram := [(0x10, 0x77)] })
    (fun t => t.r16 .hl == 0xC077 && t.regs.pc == 0x0101 && t.cycles == 8) = true := by decide +kernel

/-- `95_test_vectors.md`, 8-bit loads, row 8. -/
theorem test_ld_hl_r : ran [0x74] (fun s => { s with regs.h := 0xC2, regs.l := 0x34 })
    (fun t => memRead t 0xC234 == 0xC2 && t.regs.pc == 0x0101 && t.cycles == 8) = true := by decide +kernel

/-- `95_test_vectors.md`, 8-bit loads, row 9. -/
theorem test_ld_hl_n : ran [0x36, 0x99] (fun s => { s with regs.h := 0xDF, regs.l := 0xFF })
    (fun t => memRead t 0xDFFF == 0x99 && memRead t 0xFDFF == 0x00 && t.regs.pc == 0x0102 &&
      t.cycles == 12) = true := by decide +kernel

/-- `95_test_vectors.md`, 8-bit loads, row 12. -/
theorem test_ld_a_bc : ran [0x0A] (fun s => { s with
      regs.b := 0xC0
      regs.c := 0x01
      ram.wram := [(0x1, 0x12)] })
    (fun t => t.regs.a == 0x12 && t.r16 .bc == 0xC001 && t.cycles == 8) = true := by decide +kernel

/-- `95_test_vectors.md`, 8-bit loads, row 13. -/
theorem test_ld_a_de : ran [0x1A] (fun s => { s with regs.d := 0xFF, regs.e := 0x80, ram.hram := [(0, 0x34)] })
    (fun t => t.regs.a == 0x34 && t.r16 .de == 0xFF80 && t.cycles == 8) = true := by decide +kernel

/-- `95_test_vectors.md`, 8-bit loads, row 14. -/
theorem test_ld_bc_a : ran [0x02] (fun s => { s with regs.b := 0xC0, regs.c := 0x02, regs.a := 0xAB })
    (fun t => memRead t 0xC002 == 0xAB && t.cycles == 8) = true := by decide +kernel

/-- `95_test_vectors.md`, 8-bit loads, row 15. -/
theorem test_ld_de_a_echo : ran [0x12] (fun s => { s with regs.d := 0xE0, regs.e := 0x03, regs.a := 0xCD })
    (fun t => memRead t 0xC003 == 0xCD && memRead t 0xE003 == 0xCD && t.cycles == 8) = true := by decide +kernel

/-- `95_test_vectors.md`, 8-bit loads, row 16. -/
theorem test_ld_a_nn : ran [0xFA, 0x34, 0xC2] (fun s => { s with ram.wram := [(0x234, 0x5E)] })
    (fun t => t.regs.a == 0x5E && t.regs.pc == 0x0103 && t.cycles == 16) = true := by decide +kernel

/-- `95_test_vectors.md`, 8-bit loads, row 17. -/
theorem test_ld_nn_a : ran [0xEA, 0x00, 0xC1] (fun s => { s with regs.a := 0x77 })
    (fun t => memRead t 0xC100 == 0x77 && t.regs.pc == 0x0103 && t.cycles == 16) = true := by decide +kernel

/-- `95_test_vectors.md`, 8-bit loads, row 18. -/
theorem test_ldh_a_c : ran [0xF2] (fun s => { s with regs.c := 0x80, ram.hram := [(0, 0x66)] })
    (fun t => t.regs.a == 0x66 && t.regs.pc == 0x0101 && t.cycles == 8) = true := by decide +kernel

/-- `95_test_vectors.md`, 8-bit loads, row 19. -/
theorem test_ldh_c_a : ran [0xE2] (fun s => { s with regs.c := 0xFF, regs.a := 0x1F })
    (fun t => t.ie == 0x1F && t.regs.pc == 0x0101 && t.cycles == 8) = true := by decide +kernel

/-- `95_test_vectors.md`, 8-bit loads, row 20. -/
theorem test_ldh_a_n : ran [0xF0, 0x0F] (fun s => { s with ifReg := 0x05 })
    (fun t => t.regs.a == 0xE5 && t.regs.pc == 0x0102 && t.cycles == 12) = true := by decide +kernel

/-- `95_test_vectors.md`, 8-bit loads, row 22. -/
theorem test_ldh_n_a : ran [0xE0, 0x85] (fun s => { s with regs.a := 0x3C })
    (fun t => memRead t 0xFF85 == 0x3C && t.regs.pc == 0x0102 && t.cycles == 12) = true := by decide +kernel

/-- `95_test_vectors.md`, 8-bit loads, row 27. -/
theorem test_ld_a_hl_dec_wraps : ran [0x3A] (fun s => { s with regs.h := 0x00, regs.l := 0x00 })
    (fun t => t.regs.a == 0x00 && t.r16 .hl == 0xFFFF && t.cycles == 8) = true := by decide +kernel

/-- `95_test_vectors.md`, 8-bit loads, row 24. -/
theorem test_ld_hl_dec_a : ran [0x32] (fun s => { s with regs.h := 0xC0, regs.l := 0x00, regs.a := 0x05 })
    (fun t => memRead t 0xC000 == 0x05 && t.r16 .hl == 0xBFFF && t.cycles == 8) = true := by decide +kernel

/-- `95_test_vectors.md`, 8-bit loads, row 25. -/
theorem test_ld_a_hl_inc : ran [0x2A] (fun s => { s with
      regs.h := 0xC1
      regs.l := 0xFF
      ram.wram := [(0x1FF, 0x56)] })
    (fun t => t.regs.a == 0x56 && t.r16 .hl == 0xC200 && t.cycles == 8) = true := by decide +kernel

/-- `95_test_vectors.md`, 8-bit loads, row 26. -/
theorem test_ld_hl_inc_a_wraps : ran [0x22] (fun s => { s with regs.h := 0xFF, regs.l := 0xFF, regs.a := 0x56 })
    (fun t => t.ie == 0x56 && t.r16 .hl == 0x0000 && t.cycles == 8) = true := by decide +kernel

/-- `95_test_vectors.md`, 16-bit loads, row 1. -/
theorem test_ld_rr_nn : ran [0x01, 0x34, 0x12] (fun s => s)
    (fun t => t.r16 .bc == 0x1234 && t.regs.pc == 0x0103 && t.cycles == 12) = true := by decide +kernel

/-- `95_test_vectors.md`, 16-bit loads, row 3. -/
theorem test_ld_nn_sp : ran [0x08, 0x00, 0xC1] (fun s => { s with regs.sp := 0xFFF8 })
    (fun t => memRead t 0xC100 == 0xF8 && memRead t 0xC101 == 0xFF && t.regs.pc == 0x0103 &&
      t.cycles == 20) = true := by decide +kernel

/-- `95_test_vectors.md`, 16-bit loads, row 4. -/
theorem test_ld_sp_hl : ran [0xF9] (fun s => { s with regs.h := 0xC0, regs.l := 0xDE })
    (fun t => t.regs.sp == 0xC0DE && t.r16 .hl == 0xC0DE && t.cycles == 8) = true := by decide +kernel

/-- `95_test_vectors.md`, 16-bit loads, row 7. -/
theorem test_ld_hl_sp_e : ran [0xF8, 0xFF] (fun s => { s with regs.sp := 0x0001 })
    (fun t => t.r16 .hl == 0x0000 && t.regs.f == 0x30 && t.cycles == 12) = true := by decide +kernel

/-- `95_test_vectors.md`, 16-bit loads, row 12. -/
theorem test_push_wraps : ran [0xE5] (fun s => { s with regs.h := 0xAB, regs.l := 0xCD, regs.sp := 0x0001 })
    (fun t => t.regs.sp == 0xFFFF && t.ie == 0xCD && t.cycles == 16) = true := by decide +kernel

/-- `95_test_vectors.md`, 16-bit loads, row 11. -/
theorem test_push_af : ran [0xF5] (fun s => { s with regs.a := 0x12, regs.f := 0xB0, regs.sp := 0xD000 })
    (fun t => t.regs.sp == 0xCFFE && memRead t 0xCFFF == 0x12 && memRead t 0xCFFE == 0xB0 &&
      t.cycles == 16) = true := by decide +kernel

/-- `95_test_vectors.md`, 16-bit loads, row 16. -/
theorem test_pop_wraps : ran [0xC1] (fun s => { s with
      regs.sp := 0xFFFE
      ie := 0x22
      ram.hram := [(126, 0x11)] })
    (fun t => t.r16 .bc == 0x2211 && t.regs.sp == 0x0000 && t.cycles == 12) = true := by decide +kernel

/-- `95_test_vectors.md`, 16-bit loads, row 14. -/
theorem test_pop_af : ran [0xF1] (fun s => { s with regs.sp := 0xC000, ram.wram := [(0x0, 0xFF), (0x1, 0x12)] })
    (fun t => t.regs.a == 0x12 && t.regs.f == 0xF0 && t.regs.sp == 0xC002 &&
      t.cycles == 12) = true := by decide +kernel

/-- `95_test_vectors.md`, 8-bit ALU, register, row 5. -/
theorem test_add_r : ran [0x80] (fun s => { s with regs.a := 0xFF, regs.b := 0xFF, regs.f := 0x10 })
    (fun t => t.regs.a == 0xFE && t.regs.f == 0x30 && t.cycles == 4) = true := by decide +kernel

/-- `95_test_vectors.md`, 8-bit ALU, register, row 9. -/
theorem test_adc_r : ran [0x88] (fun s => { s with regs.a := 0x00, regs.b := 0x00, regs.f := 0xF0 })
    (fun t => t.regs.a == 0x01 && t.regs.f == 0x00 && t.cycles == 4) = true := by decide +kernel

/-- `95_test_vectors.md`, 8-bit ALU, register, row 18. -/
theorem test_sub_r : ran [0x90] (fun s => { s with regs.a := 0x10, regs.b := 0x01, regs.f := 0x00 })
    (fun t => t.regs.a == 0x0F && t.regs.f == 0x60 && t.cycles == 4) = true := by decide +kernel

/-- `95_test_vectors.md`, 8-bit ALU, register, row 20. -/
theorem test_sbc_r : ran [0x98] (fun s => { s with regs.a := 0x0F, regs.b := 0x01, regs.f := 0x10 })
    (fun t => t.regs.a == 0x0D && t.regs.f == 0x40 && t.cycles == 4) = true := by decide +kernel

/-- `95_test_vectors.md`, 8-bit ALU, register, row 27. -/
theorem test_and_r : ran [0xA0] (fun s => { s with regs.a := 0x00, regs.b := 0x00, regs.f := 0xF0 })
    (fun t => t.regs.a == 0x00 && t.regs.f == 0xA0 && t.cycles == 4) = true := by decide +kernel

/-- `95_test_vectors.md`, 8-bit ALU, register, row 36. -/
theorem test_xor_r : ran [0xA8] (fun s => { s with regs.a := 0x10, regs.b := 0x01, regs.f := 0x00 })
    (fun t => t.regs.a == 0x11 && t.regs.f == 0x00 && t.cycles == 4) = true := by decide +kernel

/-- `95_test_vectors.md`, 8-bit ALU, register, row 39. -/
theorem test_or_r : ran [0xB0] (fun s => { s with regs.a := 0x00, regs.b := 0x00, regs.f := 0xF0 })
    (fun t => t.regs.a == 0x00 && t.regs.f == 0x80 && t.cycles == 4) = true := by decide +kernel

/-- `95_test_vectors.md`, 8-bit ALU, register, row 43. -/
theorem test_cp_r : ran [0xB8] (fun s => { s with regs.a := 0x3A, regs.b := 0xC6, regs.f := 0x00 })
    (fun t => t.regs.a == 0x3A && t.regs.f == 0x50 && t.cycles == 4) = true := by decide +kernel

/-- `95_test_vectors.md`, 8-bit ALU, other operand forms, row 8. -/
theorem test_add_hl : ran [0x86] (fun s => { s with
      regs.a := 0x3C
      regs.h := 0xC0
      regs.l := 0x00
      regs.f := 0x00
      ram.wram := [(0x0, 0x12)] })
    (fun t => t.regs.a == 0x4E && t.regs.f == 0x00 && t.cycles == 8) = true := by decide +kernel

/-- `95_test_vectors.md`, 8-bit ALU, other operand forms, row 10. -/
theorem test_adc_n : ran [0xCE, 0xFF] (fun s => { s with regs.a := 0x00, regs.f := 0x10 })
    (fun t => t.regs.a == 0x00 && t.regs.f == 0xB0 && t.cycles == 8) = true := by decide +kernel

/-- `95_test_vectors.md`, 8-bit ALU, other operand forms, row 11. -/
theorem test_sub_n : ran [0xD6, 0x0F] (fun s => { s with regs.a := 0x3E, regs.f := 0x00 })
    (fun t => t.regs.a == 0x2F && t.regs.f == 0x60 && t.cycles == 8) = true := by decide +kernel

/-- `95_test_vectors.md`, 8-bit ALU, other operand forms, row 12. -/
theorem test_sbc_hl : ran [0x9E] (fun s => { s with
      regs.a := 0x3B
      regs.h := 0xC0
      regs.l := 0x00
      regs.f := 0x10
      ram.wram := [(0x0, 0x4F)] })
    (fun t => t.regs.a == 0xEB && t.regs.f == 0x70 && t.cycles == 8) = true := by decide +kernel

/-- `95_test_vectors.md`, 8-bit ALU, other operand forms, row 13. -/
theorem test_sbc_n : ran [0xDE, 0xFF] (fun s => { s with regs.a := 0x00, regs.f := 0x10 })
    (fun t => t.regs.a == 0x00 && t.regs.f == 0xF0 && t.cycles == 8) = true := by decide +kernel

/-- `95_test_vectors.md`, 8-bit ALU, other operand forms, row 14. -/
theorem test_and_n : ran [0xE6, 0x38] (fun s => { s with regs.a := 0x5A, regs.f := 0x00 })
    (fun t => t.regs.a == 0x18 && t.regs.f == 0x20 && t.cycles == 8) = true := by decide +kernel

/-- `95_test_vectors.md`, 8-bit ALU, other operand forms, row 15. -/
theorem test_xor_n : ran [0xEE, 0x0F] (fun s => { s with regs.a := 0xFF, regs.f := 0xF0 })
    (fun t => t.regs.a == 0xF0 && t.regs.f == 0x00 && t.cycles == 8) = true := by decide +kernel

/-- `95_test_vectors.md`, 8-bit ALU, other operand forms, row 16. -/
theorem test_or_hl : ran [0xB6] (fun s => { s with
      regs.a := 0x5A
      regs.h := 0xC0
      regs.l := 0x00
      regs.f := 0xF0
      ram.wram := [(0x0, 0x0F)] })
    (fun t => t.regs.a == 0x5F && t.regs.f == 0x00 && t.cycles == 8) = true := by decide +kernel

/-- `95_test_vectors.md`, 8-bit ALU, other operand forms, row 17. -/
theorem test_cp_n : ran [0xFE, 0x40] (fun s => { s with regs.a := 0x3C, regs.f := 0x00 })
    (fun t => t.regs.a == 0x3C && t.regs.f == 0x50 && t.cycles == 8) = true := by decide +kernel

/-- `95_test_vectors.md`, 8-bit ALU, other operand forms, row 18. -/
theorem test_cp_hl : ran [0xBE] (fun s => { s with
      regs.a := 0x3C
      regs.h := 0xC0
      regs.l := 0x00
      regs.f := 0x00
      ram.wram := [(0x0, 0x3C)] })
    (fun t => t.regs.a == 0x3C && t.regs.f == 0xC0 && t.cycles == 8) = true := by decide +kernel

/-- `95_test_vectors.md`, 8-bit ALU, other operand forms, row 21. -/
theorem test_inc_r : ran [0x04] (fun s => { s with regs.b := 0x0F, regs.f := 0x40 })
    (fun t => t.regs.b == 0x10 && t.regs.f == 0x20 && t.cycles == 4) = true := by decide +kernel

/-- `95_test_vectors.md`, 8-bit ALU, other operand forms, row 22. -/
theorem test_inc_hl : ran [0x34] (fun s => { s with
      regs.h := 0xC0
      regs.l := 0x00
      regs.f := 0x00
      ram.wram := [(0x0, 0x50)] })
    (fun t => memRead t 0xC000 == 0x51 && t.regs.f == 0x00 && t.cycles == 12) = true := by decide +kernel

/-- `95_test_vectors.md`, 8-bit ALU, other operand forms, row 24. -/
theorem test_dec_l_does_not_borrow : ran [0x2D] (fun s => { s with
      regs.h := 0x01
      regs.l := 0x00
      regs.f := 0x00 })
    (fun t => t.r16 .hl == 0x01FF && t.regs.f == 0x60 && t.cycles == 4) = true := by decide +kernel

/-- `95_test_vectors.md`, 8-bit ALU, other operand forms, row 25. -/
theorem test_dec_hl : ran [0x35] (fun s => { s with
      regs.h := 0xC0
      regs.l := 0x00
      regs.f := 0x00
      ram.wram := [] })
    (fun t => memRead t 0xC000 == 0xFF && t.regs.f == 0x60 && t.cycles == 12) = true := by decide +kernel

/-- `95_test_vectors.md`, 8-bit ALU, other operand forms, row 27. -/
theorem test_cpl : ran [0x2F] (fun s => { s with regs.a := 0x35, regs.f := 0x90 })
    (fun t => t.regs.a == 0xCA && t.regs.f == 0xF0 && t.cycles == 4) = true := by decide +kernel

/-- `95_test_vectors.md`, 8-bit ALU, other operand forms, row 28. -/
theorem test_scf : ran [0x37] (fun s => { s with regs.f := 0xE0 })
    (fun t => t.regs.a == 0x01 && t.regs.f == 0x90 && t.cycles == 4) = true := by decide +kernel

/-- `95_test_vectors.md`, 8-bit ALU, other operand forms, row 29. -/
theorem test_ccf : ran [0x3F] (fun s => { s with regs.f := 0xF0 })
    (fun t => t.regs.f == 0x80 && t.cycles == 4) = true := by decide +kernel

/-- By hand from rule R312. -/
theorem test_add_n : ran [0xC6, 0xC6] (fun s => { s with regs.a := 0x3A, regs.f := 0xF0 })
    (fun t => t.regs.a == 0x00 && t.regs.f == 0xB0 && t.regs.pc == 0x0102 &&
      t.cycles == 8) = true := by decide +kernel

/-- By hand from rule R314. -/
theorem test_adc_hl : ran [0x8E] (fun s => { s with
      regs.a := 0x0F
      regs.h := 0xC0
      regs.l := 0x00
      regs.f := 0x10
      ram.wram := [(0x0, 0x01)] })
    (fun t => t.regs.a == 0x11 && t.regs.f == 0x20 && t.cycles == 8) = true := by decide +kernel

/-- By hand from rule R317. -/
theorem test_sub_hl : ran [0x96] (fun s => { s with
      regs.a := 0x10
      regs.h := 0xC0
      regs.l := 0x00
      regs.f := 0x00
      ram.wram := [(0x0, 0x01)] })
    (fun t => t.regs.a == 0x0F && t.regs.f == 0x60 && t.cycles == 8) = true := by decide +kernel

/-- By hand from rule R323. -/
theorem test_and_hl : ran [0xA6] (fun s => { s with
      regs.a := 0x3A
      regs.h := 0xC0
      regs.l := 0x00
      regs.f := 0x50
      ram.wram := [(0x0, 0xC6)] })
    (fun t => t.regs.a == 0x02 && t.regs.f == 0x20 && t.cycles == 8) = true := by decide +kernel

/-- By hand from rule R326. -/
theorem test_xor_hl : ran [0xAE] (fun s => { s with
      regs.a := 0x3A
      regs.h := 0xC0
      regs.l := 0x00
      regs.f := 0xF0
      ram.wram := [(0x0, 0xC6)] })
    (fun t => t.regs.a == 0xFC && t.regs.f == 0x00 && t.cycles == 8) = true := by decide +kernel

/-- By hand from rule R330. -/
theorem test_or_n : ran [0xF6, 0xC6] (fun s => { s with regs.a := 0x3A, regs.f := 0xF0 })
    (fun t => t.regs.a == 0xFE && t.regs.f == 0x00 && t.regs.pc == 0x0102 &&
      t.cycles == 8) = true := by decide +kernel

/-- `95_test_vectors.md`, DAA, row 3. -/
theorem test_daa_after_addition : ran [0x27] (fun s => { s with regs.a := 0x9A, regs.f := 0x00 })
    (fun t => t.regs.a == 0x00 && t.regs.f == 0x90 && t.cycles == 4) = true := by decide +kernel

/-- `95_test_vectors.md`, DAA, row 12. -/
theorem test_daa_after_subtraction : ran [0x27] (fun s => { s with regs.a := 0x00, regs.f := 0x70 })
    (fun t => t.regs.a == 0x9A && t.regs.f == 0x50 && t.cycles == 4) = true := by decide +kernel

/-- `95_test_vectors.md`, 16-bit arithmetic, row 4. -/
theorem test_add_hl_rr : ran [0x39] (fun s => { s with
      regs.h := 0xFF
      regs.l := 0xFF
      regs.sp := 0x0001
      regs.f := 0x40 })
    (fun t => t.r16 .hl == 0x0000 && t.regs.f == 0x30 && t.cycles == 8) = true := by decide +kernel

/-- `95_test_vectors.md`, 16-bit arithmetic, row 6. -/
theorem test_inc_rr_wraps : ran [0x13] (fun s => { s with regs.d := 0xFF, regs.e := 0xFF, regs.f := 0x00 })
    (fun t => t.r16 .de == 0x0000 && t.regs.f == 0x00 && t.cycles == 8) = true := by decide +kernel

/-- `95_test_vectors.md`, 16-bit arithmetic, row 8. -/
theorem test_dec_rr_wraps : ran [0x0B] (fun s => { s with regs.b := 0x00, regs.c := 0x00, regs.f := 0x00 })
    (fun t => t.r16 .bc == 0xFFFF && t.regs.f == 0x00 && t.cycles == 8) = true := by decide +kernel

/-- `95_test_vectors.md`, 16-bit arithmetic, row 14. -/
theorem test_add_sp_e : ran [0xE8, 0x80] (fun s => { s with regs.sp := 0x0080, regs.f := 0x00 })
    (fun t => t.regs.sp == 0x0000 && t.regs.f == 0x10 && t.cycles == 16) = true := by decide +kernel

/-- `95_test_vectors.md`, Accumulator rotates, row 2. -/
theorem test_rlca_clears_z : ran [0x07] (fun s => { s with regs.a := 0x00, regs.f := 0xF0 })
    (fun t => t.regs.a == 0x00 && t.regs.f == 0x00 && t.cycles == 4) = true := by decide +kernel

/-- `95_test_vectors.md`, Accumulator rotates, row 3. -/
theorem test_rrca : ran [0x0F] (fun s => { s with regs.a := 0x3B, regs.f := 0x00 })
    (fun t => t.regs.a == 0x9D && t.regs.f == 0x10 && t.cycles == 4) = true := by decide +kernel

/-- `95_test_vectors.md`, Accumulator rotates, row 5. -/
theorem test_rla_clears_z : ran [0x17] (fun s => { s with regs.a := 0x80, regs.f := 0x00 })
    (fun t => t.regs.a == 0x00 && t.regs.f == 0x10 && t.cycles == 4) = true := by decide +kernel

/-- `95_test_vectors.md`, Accumulator rotates, row 7. -/
theorem test_rra_clears_z : ran [0x1F] (fun s => { s with regs.a := 0x01, regs.f := 0x00 })
    (fun t => t.regs.a == 0x00 && t.regs.f == 0x10 && t.cycles == 4) = true := by decide +kernel

/-- `95_test_vectors.md`, Prefixed rotates, row 1. -/
theorem test_rlc_r : ran [0xCB, 0x00] (fun s => { s with regs.b := 0x85, regs.f := 0x00 })
    (fun t => t.regs.b == 0x0B && t.regs.f == 0x10 && t.cycles == 8) = true := by decide +kernel

/-- `95_test_vectors.md`, Prefixed rotates, row 7. -/
theorem test_rrc_r : ran [0xCB, 0x08] (fun s => { s with regs.b := 0x01, regs.f := 0x10 })
    (fun t => t.regs.b == 0x80 && t.regs.f == 0x10 && t.cycles == 8) = true := by decide +kernel

/-- `95_test_vectors.md`, Prefixed rotates, row 12. -/
theorem test_rl_r : ran [0xCB, 0x10] (fun s => { s with regs.b := 0x80, regs.f := 0x00 })
    (fun t => t.regs.b == 0x00 && t.regs.f == 0x90 && t.cycles == 8) = true := by decide +kernel

/-- `95_test_vectors.md`, Prefixed rotates, row 14. -/
theorem test_rr_r : ran [0xCB, 0x18] (fun s => { s with regs.b := 0x00, regs.f := 0x10 })
    (fun t => t.regs.b == 0x80 && t.regs.f == 0x00 && t.cycles == 8) = true := by decide +kernel

/-- `95_test_vectors.md`, Prefixed rotates, row 20. -/
theorem test_sla_r : ran [0xCB, 0x20] (fun s => { s with regs.b := 0x80, regs.f := 0x00 })
    (fun t => t.regs.b == 0x00 && t.regs.f == 0x90 && t.cycles == 8) = true := by decide +kernel

/-- `95_test_vectors.md`, Prefixed rotates, row 24. -/
theorem test_sra_r : ran [0xCB, 0x28] (fun s => { s with regs.b := 0x80, regs.f := 0x00 })
    (fun t => t.regs.b == 0xC0 && t.regs.f == 0x00 && t.cycles == 8) = true := by decide +kernel

/-- `95_test_vectors.md`, Prefixed rotates, row 25. -/
theorem test_swap_r : ran [0xCB, 0x30] (fun s => { s with regs.b := 0x85, regs.f := 0x00 })
    (fun t => t.regs.b == 0x58 && t.regs.f == 0x00 && t.cycles == 8) = true := by decide +kernel

/-- `95_test_vectors.md`, Prefixed rotates, row 31. -/
theorem test_srl_r : ran [0xCB, 0x38] (fun s => { s with regs.b := 0x01, regs.f := 0x10 })
    (fun t => t.regs.b == 0x00 && t.regs.f == 0x90 && t.cycles == 8) = true := by decide +kernel

/-- `95_test_vectors.md`, Prefixed operations, row 1. -/
theorem test_rlc_hl : ran [0xCB, 0x06] (fun s => { s with
      regs.h := 0xC0
      regs.l := 0x00
      regs.f := 0x00
      ram.wram := [(0x0, 0x80)] })
    (fun t => memRead t 0xC000 == 0x01 && t.regs.f == 0x10 && t.regs.pc == 0x0102 &&
      t.cycles == 16) = true := by decide +kernel

/-- `95_test_vectors.md`, Prefixed operations, row 2. -/
theorem test_sra_hl : ran [0xCB, 0x2E] (fun s => { s with
      regs.h := 0xC0
      regs.l := 0x00
      regs.f := 0x00
      ram.wram := [(0x0, 0x81)] })
    (fun t => memRead t 0xC000 == 0xC0 && t.regs.f == 0x10 && t.cycles == 16) = true := by decide +kernel

/-- `95_test_vectors.md`, Prefixed operations, row 3. -/
theorem test_swap_hl : ran [0xCB, 0x36] (fun s => { s with
      regs.h := 0xC0
      regs.l := 0x00
      regs.f := 0xF0
      ram.wram := [(0x0, 0xF1)] })
    (fun t => memRead t 0xC000 == 0x1F && t.regs.f == 0x00 && t.cycles == 16) = true := by decide +kernel

/-- `95_test_vectors.md`, Prefixed operations, row 5. -/
theorem test_srl_hl : ran [0xCB, 0x3E] (fun s => { s with
      regs.h := 0xC0
      regs.l := 0x00
      regs.f := 0x00
      ram.wram := [(0x0, 0x01)] })
    (fun t => memRead t 0xC000 == 0x00 && t.regs.f == 0x90 && t.cycles == 16) = true := by decide +kernel

/-- `95_test_vectors.md`, Prefixed operations, row 7. -/
theorem test_bit_r : ran [0xCB, 0x65] (fun s => { s with regs.h := 0x01, regs.l := 0xEF, regs.f := 0x00 })
    (fun t => t.r16 .hl == 0x01EF && t.regs.f == 0xA0 && t.cycles == 8) = true := by decide +kernel

/-- `95_test_vectors.md`, Prefixed operations, row 8. -/
theorem test_bit_hl : ran [0xCB, 0x46] (fun s => { s with
      regs.h := 0xC0
      regs.l := 0x00
      regs.f := 0x50
      ram.wram := [(0x0, 0xFE)] })
    (fun t => memRead t 0xC000 == 0xFE && t.regs.f == 0xB0 && t.cycles == 12) = true := by decide +kernel

/-- `95_test_vectors.md`, Prefixed operations, row 11. -/
theorem test_res_r : ran [0xCB, 0x8D] (fun s => { s with regs.h := 0x01, regs.l := 0x3B, regs.f := 0x00 })
    (fun t => t.r16 .hl == 0x0139 && t.regs.f == 0x00 && t.cycles == 8) = true := by decide +kernel

/-- `95_test_vectors.md`, Prefixed operations, row 12. -/
theorem test_res_hl : ran [0xCB, 0x9E] (fun s => { s with
      regs.h := 0xC0
      regs.l := 0x00
      ram.wram := [(0x0, 0xFF)] })
    (fun t => memRead t 0xC000 == 0xF7 && t.cycles == 16) = true := by decide +kernel

/-- `95_test_vectors.md`, Prefixed operations, row 14. -/
theorem test_set_r : ran [0xCB, 0xFD] (fun s => { s with regs.h := 0x01, regs.l := 0x3B })
    (fun t => t.r16 .hl == 0x01BB && t.cycles == 8) = true := by decide +kernel

/-- `95_test_vectors.md`, Prefixed operations, row 15. -/
theorem test_set_hl : ran [0xCB, 0xDE] (fun s => { s with
      regs.h := 0xC0
      regs.l := 0x00
      regs.f := 0xF0
      ram.wram := [] })
    (fun t => memRead t 0xC000 == 0x08 && t.regs.f == 0xF0 && t.cycles == 16) = true := by decide +kernel

/-- By hand from rule R388. -/
theorem test_rrc_hl : ran [0xCB, 0x0E] (fun s => { s with
      regs.h := 0xC0
      regs.l := 0x00
      regs.f := 0x00
      ram.wram := [(0x0, 0x01)] })
    (fun t => memRead t 0xC000 == 0x80 && t.regs.f == 0x10 && t.cycles == 16) = true := by decide +kernel

/-- By hand from rule R390. -/
theorem test_rl_hl : ran [0xCB, 0x16] (fun s => { s with
      regs.h := 0xC0
      regs.l := 0x00
      regs.f := 0x00
      ram.wram := [(0x0, 0x80)] })
    (fun t => memRead t 0xC000 == 0x00 && t.regs.f == 0x90 && t.cycles == 16) = true := by decide +kernel

/-- By hand from rule R392. -/
theorem test_rr_hl : ran [0xCB, 0x1E] (fun s => { s with
      regs.h := 0xC0
      regs.l := 0x00
      regs.f := 0x10
      ram.wram := [] })
    (fun t => memRead t 0xC000 == 0x80 && t.regs.f == 0x00 && t.cycles == 16) = true := by decide +kernel

/-- By hand from rule R394. -/
theorem test_sla_hl : ran [0xCB, 0x26] (fun s => { s with
      regs.h := 0xC0
      regs.l := 0x00
      regs.f := 0x00
      ram.wram := [(0x0, 0x80)] })
    (fun t => memRead t 0xC000 == 0x00 && t.regs.f == 0x90 && t.cycles == 16) = true := by decide +kernel

/-- `95_test_vectors.md`, Control transfer, row 1. -/
theorem test_jp_nn : ran [0xC3, 0x00, 0x80] (fun s => s)
    (fun t => t.regs.pc == 0x8000 && t.cycles == 16) = true := by decide +kernel

/-- `95_test_vectors.md`, Control transfer, row 2. -/
theorem test_jp_cc_taken : ran [0xC2, 0x50, 0x01] (fun s => { s with regs.f := 0x00 })
    (fun t => t.regs.pc == 0x0150 && t.cycles == 16) = true := by decide +kernel

/-- `95_test_vectors.md`, Control transfer, row 3. -/
theorem test_jp_cc_not_taken : ran [0xC2, 0x50, 0x01] (fun s => { s with regs.f := 0x80 })
    (fun t => t.regs.pc == 0x0103 && t.cycles == 12) = true := by decide +kernel

/-- `95_test_vectors.md`, Control transfer, row 5. -/
theorem test_jp_hl : ran [0xE9] (fun s => { s with regs.h := 0xC0, regs.l := 0x00 })
    (fun t => t.regs.pc == 0xC000 && t.r16 .hl == 0xC000 && t.cycles == 4) = true := by decide +kernel

/-- `95_test_vectors.md`, Control transfer, row 8. -/
theorem test_jr_backwards : ran [0x18, 0x80] (fun s => s)
    (fun t => t.regs.pc == 0x0082 && t.cycles == 12) = true := by decide +kernel

/-- `95_test_vectors.md`, Control transfer, row 9. -/
theorem test_jr_cc_taken : ran [0x28, 0x10] (fun s => { s with regs.f := 0x80 })
    (fun t => t.regs.pc == 0x0112 && t.cycles == 12) = true := by decide +kernel

/-- `95_test_vectors.md`, Control transfer, row 10. -/
theorem test_jr_cc_not_taken : ran [0x28, 0x10] (fun s => { s with regs.f := 0x00 })
    (fun t => t.regs.pc == 0x0102 && t.cycles == 8) = true := by decide +kernel

/-- `95_test_vectors.md`, Control transfer, row 12. -/
theorem test_call : ran [0xCD, 0x34, 0x12] (fun s => { s with regs.sp := 0xD000 })
    (fun t => t.regs.pc == 0x1234 && t.regs.sp == 0xCFFE && memRead t 0xCFFF == 0x01 && memRead t 0xCFFE == 0x03 &&
      t.cycles == 24) = true := by decide +kernel

/-- `95_test_vectors.md`, Control transfer, row 13. -/
theorem test_call_cc_not_taken : ran [0xCC, 0x34, 0x12] (fun s => { s with regs.sp := 0xD000, regs.f := 0x00 })
    (fun t => t.regs.pc == 0x0103 && t.regs.sp == 0xD000 && t.cycles == 12) = true := by decide +kernel

/-- `95_test_vectors.md`, Control transfer, row 14. -/
theorem test_call_cc_taken : ran [0xD4, 0x34, 0x12] (fun s => { s with regs.sp := 0xD000, regs.f := 0x00 })
    (fun t => t.regs.pc == 0x1234 && t.regs.sp == 0xCFFE && memRead t 0xCFFF == 0x01 && memRead t 0xCFFE == 0x03 &&
      t.cycles == 24) = true := by decide +kernel

/-- `95_test_vectors.md`, Control transfer, row 15. -/
theorem test_ret : ran [0xC9] (fun s => { s with regs.sp := 0xC000, ram.wram := [(0x0, 0x03), (0x1, 0x80)] })
    (fun t => t.regs.pc == 0x8003 && t.regs.sp == 0xC002 && t.cycles == 16) = true := by decide +kernel

/-- `95_test_vectors.md`, Control transfer, row 16. -/
theorem test_ret_cc_taken : ran [0xC8] (fun s => { s with
      regs.sp := 0xC000
      regs.f := 0x80
      ram.wram := [(0x0, 0x03), (0x1, 0x80)] })
    (fun t => t.regs.pc == 0x8003 && t.regs.sp == 0xC002 && t.cycles == 20) = true := by decide +kernel

/-- `95_test_vectors.md`, Control transfer, row 17. -/
theorem test_ret_cc_not_taken : ran [0xC8] (fun s => { s with regs.sp := 0xC000, regs.f := 0x00 })
    (fun t => t.regs.pc == 0x0101 && t.regs.sp == 0xC000 && t.cycles == 8) = true := by decide +kernel

/-- `95_test_vectors.md`, Control transfer, row 18. -/
theorem test_reti : ran [0xD9] (fun s => { s with
      regs.sp := 0xC000
      ime := false
      ram.wram := [(0x0, 0x03), (0x1, 0x80)] })
    (fun t => t.regs.pc == 0x8003 && t.regs.sp == 0xC002 && t.ime && t.cycles == 16) = true := by decide +kernel

/-- `95_test_vectors.md`, Control transfer, row 21. -/
theorem test_rst : ran [0xEF] (fun s => { s with regs.sp := 0xD000 })
    (fun t => t.regs.pc == 0x0028 && t.regs.sp == 0xCFFE && t.cycles == 16) = true := by decide +kernel

/-- `95_test_vectors.md`, System instructions, row 1. -/
theorem test_nop : ran [0x00] (fun s => s)
    (fun t => t.regs.pc == 0x0101 && t.regs.f == 0xB0 && t.cycles == 4) = true := by decide +kernel

/-- `95_test_vectors.md`, System instructions, row 2. -/
theorem test_halt : ran [0x76] (fun s => s)
    (fun t => t.regs.pc == 0x0101 && t.run == .halted && t.cycles == 4) = true := by decide +kernel

/-- `95_test_vectors.md`, System instructions, row 5. -/
theorem test_halted_step_waits : ran [0x76, 0x3C] (fun s => { s with
      run := .halted
      regs.pc := 0x0101
      ie := 0x04
      ifReg := 0x1B
      ime := true })
    (fun t => t.regs.pc == 0x0101 && t.run == .halted && t.regs.a == 0x01 && t.ifReg == 0x1B &&
      t.cycles == 1) = true := by decide +kernel

/-- `95_test_vectors.md`, System instructions, row 7. -/
theorem test_halted_step_dispatches : ran [0x76, 0x3C] (fun s => { s with
      run := .halted
      regs.pc := 0x0101
      ie := 0x04
      ifReg := 0x04
      ime := true })
    (fun t => t.regs.pc == 0x0050 && t.run == .running && t.regs.a == 0x01 && t.ifReg == 0x00 && !t.ime &&
      t.regs.sp == 0xFFFC && memRead t 0xFFFD == 0x01 && memRead t 0xFFFC == 0x01 &&
      t.cycles == 20) = true := by decide +kernel

/-- `95_test_vectors.md`, System instructions, row 9. -/
theorem test_stop : ran [0x10, 0x00] (fun s => s)
    (fun t => t.regs.pc == 0x0102 && t.run == .stopped && t.cycles == 4) = true := by decide +kernel

/-- `95_test_vectors.md`, System instructions, row 11. -/
theorem test_di : ran [0xF3] (fun s => { s with ime := true })
    (fun t => !t.ime && t.regs.pc == 0x0101 && t.cycles == 4) = true := by decide +kernel

/-- `95_test_vectors.md`, System instructions, row 12. -/
theorem test_ei : ran [0xFB] (fun s => { s with ime := false })
    (fun t => !t.ime && t.eiPending && t.regs.pc == 0x0101 && t.cycles == 4) = true := by decide +kernel

/-- `95_test_vectors.md`, Interrupt dispatch, row 6. -/
theorem test_dispatch_takes_the_lowest : ran [0x00] (fun s => { s with ime := true, ie := 0x1F, ifReg := 0x1F })
    (fun t => t.regs.pc == 0x0040 && t.ifReg == 0x1E && !t.ime && t.cycles == 20) = true := by decide +kernel

/-- `95_test_vectors.md`, Interrupt dispatch, row 9. -/
theorem test_dispatch_ignores_high_ie_bits : ran [0x00] (fun s => { s with
      ime := true
      ie := 0xE0
      ifReg := 0x1F })
    (fun t => t.regs.pc == 0x0101 && t.ifReg == 0x1F && t.ime && t.cycles == 4) = true := by decide +kernel

/-- `95_test_vectors.md`, System instructions, rows 15 to 17, for every undefined byte: PC stays, the report names the byte,
and the next step faults. -/
theorem test_undefined_first_bytes :
    undefinedRows.all (fun row => ran [row.1] (fun s => s) (fun t =>
      t.run == .faulted row.1 0x0100 && t.report == .illegalInstruction row.1 0x0100 && t.regs.pc == 0x0100 &&
      t.cycles == 0 && match step t with | .fault r => r == .illegalInstruction row.1 0x0100 | _ => false)) = true := by
  decide +kernel

/-- By hand from rule R465: the prefix byte runs `SWAP A`. -/
theorem test_prefix_runs_its_second_byte :
    execGives (.prefixCb 0x37) { start [] with regs.a := 0xF1 } (fun t => t.regs.a == 0x1F && t.cycles == 8) = true := by
  decide +kernel

/-! ## The devices -/

/-- `95_test_vectors.md`, Memory map, rows 15, 17, 20 and 33. -/
theorem test_io_reads :
    memRead { start [] with timer.tac := 5 } 0xFF07 = 0xFD ∧ memRead { start [] with timer.sys := 0xABCD } 0xFF04 = 0xAB ∧
      memRead { start [] with lcd.lcdc := 0x91, ppu.mode := .pixelTransfer, lcd.ly := 5, lcd.stat := 15 } 0xFF41 = 0xFB ∧
      (memWrite { start [] with lcd.lcdc := 0x91 } 0xFE9F 0x34).ram.oam = [] := by
  decide +kernel

/-- `95_test_vectors.md`, the OAM copy from 0xC100, here with two bytes of the page set. -/
theorem test_oam_copy :
    (memWrite { start [] with ram.wram := [(0x100, 0x01), (0x19F, 0xDE)], ram.oam := [(7, 0x55)] } 0xFF46 0xC1).ram.oam =
      [(0, 0x01), (0x9F, 0xDE)] := by
  decide +kernel

/-- A cartridge of the variant with four ROM banks, bank `b` holding `b` at its start, and 32 KiB of RAM, or MBC2's own. -/
def bankCart (v : Variant) : Cartridge where
  image    := { length := 65536, bytes := [(0x4000, 1), (0x8000, 2), (0xC000, 3)] }
  variant  := v
  romBanks := 4
  ramSize  := if v = .mbc2 then 512 else 32768
  ramBanks := if v = .mbc2 then 1 else 4

/-- After reset with that cartridge and its RAM enabled. -/
def banked (v : Variant) : State :=
  memWrite { resetState Params.default (some (bankCart v)) with lcd.lcdc := 0x11 } 0x0000 0x0A

/-- `95_test_vectors.md`, Bank controllers, rows 4, 7, 8 and 9. -/
theorem test_mbc1_bank :
    [0x05, 0x00, 0x20].map (fun v => memRead (memWrite (banked .mbc1) 0x2000 v) 0x4000) = [1, 1, 1] ∧
      memRead (memWrite (banked .mbc1) 0x3FFF 0xE3) 0x4000 = 3 := by
  decide +kernel

/-- `95_test_vectors.md`, Bank controllers, rows 19 to 21. -/
theorem test_mbc2_bank_and_ram :
    [0x03, 0x06, 0x00, 0xF4].map (fun v => memRead (memWrite (banked .mbc2) 0x2100 v) 0x4000) = [3, 2, 1, 0] ∧
      memRead (memWrite (banked .mbc2) 0x2000 0x03) 0x4000 = 1 ∧
      memRead (memWrite (banked .mbc2) 0xA000 0x5C) 0xBE00 = 0xFC := by
  decide +kernel

/-- `95_test_vectors.md`, Bank controllers, row 23: a RAM bank wraps, a clock register answers nothing. -/
theorem test_mbc3_ram :
    let s := memWrite (memWrite (banked .mbc3) 0x4000 0x01) 0xA000 0x77
    [0x00, 0x01, 0x05, 0x08].map (fun v => memRead (memWrite s 0x4000 v) 0xA000) = [0x00, 0x77, 0x77, 0xFF] := by
  decide +kernel

/-- `95_test_vectors.md`, Bank controllers, row 24, with four banks: MBC5 selects bank 0. -/
theorem test_mbc5_bank :
    [0x00, 0x3F, 0x41].map (fun v => memRead (memWrite (banked .mbc5) 0x2000 v) 0x4000) = [0, 3, 1] := by
  decide +kernel

/-- `95_test_vectors.md`, Timer, rows 4 and 5, by cycles. -/
theorem test_timer_reloads :
    (let t := timerAdvance 32 { start [] with timer.tac := 5, timer.tima := 0xFE, timer.tma := 0xAB }
     (t.timer.sys, t.timer.tima, t.ifReg)) = (0x0020, 0xAB, 4) ∧
    (let t := timerAdvance 16 { start [] with timer.tac := 5, timer.tima := 0xFF, timer.tma := 0xAB }
     (t.timer.sys, t.timer.tima, t.ifReg)) = (0x0010, 0xAB, 4) := by
  decide +kernel

/-- A state with the LCD on at the given place of the frame. -/
def onLine (ly dot : Nat) : State :=
  { start [] with lcd.lcdc := 0x91, lcd.ly := BitVec.ofNat 8 ly, ppu.dot := dot, ppu.mode := modeAt ly dot }

/-- `95_test_vectors.md`, PPU state machine, rows 2, 13, 17, 20 and 22, each by its last dot. -/
theorem test_ppu_dot :
    (ppuDot (onLine 0 79)).ppu.mode = .pixelTransfer ∧
    (let t := ppuDot { onLine 0 455 with lcd.stat := 4 }
     (t.lcd.ly, t.ppu.dot, t.ppu.mode, t.ifReg, memRead t 0xFF41)) = (1, 0, .oamScan, 2, 0xA2) ∧
    (let t := ppuDot { onLine 0 455 with lcd.stat := 8, lcd.lyc := 1 }
     (t.lcd.ly, t.ifReg, memRead t 0xFF41)) = (1, 2, 0xC6) ∧
    (let t := ppuDot { onLine 153 455 with lcd.stat := 8, lcd.lyc := 0 }
     (t.lcd.ly, t.ppu.mode, t.ifReg, memRead t 0xFF41)) = (0, .oamScan, 2, 0xC6) ∧
    (let t := ppuDot { onLine 143 455 with lcd.stat := 15, lcd.lyc := 0x90 }
     (t.lcd.ly, t.ppu.mode, t.ifReg, t.ppu.redrawPending, memRead t 0xFF41)) = (144, .vBlank, 3, true, 0xFD) := by
  decide +kernel

/-- `95_test_vectors.md`, Rasterizer, rows 1 and 9, the pixels where the shades change. -/
theorem test_background_and_window :
    (let s := { start [] with
        lcd.lcdc := 0x91, lcd.bgp := 0xE4, ram.vram := [(0x10, 0xAA), (0x11, 0xCC), (0x1800, 0x01)] }
     [0, 1, 2, 3, 8].map (pixelShade s [] 0)) = [3, 2, 1, 0, 0] ∧
    (let s := { start [] with
        lcd.lcdc := 0xF1, lcd.bgp := 0xE4, lcd.wx := 0x0B, ram.vram := [(0x20, 0xFF), (0x21, 0xFF), (0x1C00, 0x02)] }
     [3, 4, 11, 12].map (pixelShade s [] 0)) = [0, 3, 3, 0] := by
  decide +kernel

/-- The video state of `95_test_vectors.md`, Rasterizer, row 18: two sprites at one X. -/
def twoSprites : State :=
  { start [] with
    lcd.lcdc := 0x93, lcd.bgp := 0xE4, lcd.obp0 := 0xE4
    ram.vram := [(0x30, 0xF0), (0x31, 0xCC), (0x40, 0xFF), (0x41, 0xFF)]
    ram.oam := [(0, 0x10), (1, 0x08), (2, 0x03), (4, 0x10), (5, 0x08), (6, 0x04)] }

/-- `95_test_vectors.md`, Rasterizer, row 18, the pixels where the shades change. -/
theorem test_sprites :
    [0, 2, 4, 5, 6, 8].map (pixelShade twoSprites (spritesOnLine twoSprites 0) 0) = [3, 1, 2, 2, 3, 0] := by
  decide +kernel

/-- By hand from rule R566: a tall entry with both flips, at line 7 of its tile pair, is at row 8, the second tile's first,
read from the right. -/
theorem test_tall_flipped_sprite :
    [0, 1, 2, 4, 7].map (fun x => spritePixel { twoSprites with lcd.lcdc := 0x97 } 7 x ⟨16, 8, 2, 0x60⟩) =
      [none, none, some 2, some 1, some 3] := by
  decide +kernel

/-! ## The host's calls -/

/-- An image of the shortest length, zero but for the type and the RAM size code. -/
def shortImage (ty ram : Byte) : List Byte := List.replicate 0x147 0 ++ [ty, 0, ram] ++ List.replicate 6 0

/-- `95_test_vectors.md`, Cartridge load, rows 2, 3, 8, 12 and 16, at the shortest lengths. -/
theorem test_load :
    (loadCartridge (List.replicate 0x14F 0) State.reset).2 = some .malformedCartridge ∧
    (loadCartridge (shortImage 0x00 0) State.reset).2 = none ∧
    (let r := loadCartridge (shortImage 0x06 5) State.reset
     (r.2, r.1.cart.map (fun c => (c.variant, c.romBanks, c.ramSize, c.ramBanks)))) = (none, some (.mbc2, 1, 512, 1)) ∧
    (loadCartridge (shortImage 0x0B 0) State.reset).2 = some .unsupportedCartridgeType ∧
    (loadCartridge (shortImage 0x01 6) State.reset).2 = some .unsupportedCartridgeType := by
  decide +kernel

/-- By hand from rules R646 and R649: refused before any reset; at a ceiling of one, one step and no frame. -/
theorem test_run_until_redraw :
    (match runUntilRedraw { start [] with driver := .uninitialized } with
      | .refused r => r == .driverUninitialized | _ => false) = true ∧
    (match runUntilRedraw { start [0x04] with params.iterCeiling := 1 } with
      | .next (t, .frameReady r) => t.regs.b == 1 && !r && t.driver == .running | _ => false) = true := by
  decide +kernel

/-! ## Witnesses: what meets the hypotheses of each statement -/

theorem test_witness_well_formed : (Instr.setHl 7).wellFormed = true ∧ (Instr.ldRrNn .sp 0xFFFF).wellFormed = true :=
  ⟨rfl, rfl⟩

theorem test_witness_decodes :
    decode [0xCB, 0xFF, 0x00] = .ok (.setR 7 .a, [0x00]) ∧ decode [0x00] = .ok (.nop, []) := ⟨rfl, rfl⟩

/-- At PC 0x0100 and, with an immediate that wraps to address 0, at PC 0xFFFF. -/
theorem test_witness_a_step_runs :
    (let s := start [0x01, 0x34, 0x12]
     s.run = .running ∧ irqToTake s = none ∧
      decode [memRead s s.regs.pc, memRead s (s.regs.pc + 1), memRead s (s.regs.pc + 2)] =
        .ok (.ldRrNn .bc 0x1234, [])) ∧
    (let s := { start [] with regs.pc := 0xFFFF, ie := 0x3E }
     s.run = .running ∧ irqToTake s = none ∧
      decode [memRead s s.regs.pc, memRead s (s.regs.pc + 1), memRead s (s.regs.pc + 2)] =
        .ok (.ldRN .a 0x00, [0x00])) := ⟨⟨rfl, rfl, by decide +kernel⟩, ⟨rfl, rfl, by decide +kernel⟩⟩

/-- The lowest source, running, and the highest, halted. -/
theorem test_witness_dispatch :
    (let s := { start [] with ime := true, ie := 0x1F, ifReg := 0x1F }
     s.run = .running ∧ s.ime = true ∧ s.ie.getLsbD 0 = true ∧ s.ifReg.getLsbD 0 = true ∧
      ∀ j < 0, (s.ie.getLsbD j && s.ifReg.getLsbD j) = false) ∧
    (let s := { start [] with run := .halted, ime := true, ie := 0xF0, ifReg := 0x1F }
     s.run = .halted ∧ s.ime = true ∧ s.ie.getLsbD 4 = true ∧ s.ifReg.getLsbD 4 = true ∧
      ∀ j < 4, (s.ie.getLsbD j && s.ifReg.getLsbD j) = false) := by
  decide +kernel

/-- No enabled request, although disabled ones are pending, and one. -/
theorem test_witness_halted :
    (let s := { start [] with run := .halted, ie := 0xE4, ifReg := 0x1B }
     s.run = .halted ∧ ∀ j < 5, (s.ie.getLsbD j && s.ifReg.getLsbD j) = false) ∧
    (let s := { start [] with run := .halted, ie := 0x10, ifReg := 0x10 }
     s.run = .halted ∧ (s.ie.getLsbD 4 && s.ifReg.getLsbD 4) = true) := by
  decide +kernel

theorem test_witness_stopped_and_faulted :
    (loadCartridge (shortImage 0x00 0) State.reset).2 = none ∧
    ({ start [] with run := .stopped } : State).run = .stopped ∧
    (let s := { start [] with run := .faulted 0xD3 0x0100 }
     s.run = .faulted 0xD3 0x0100 ∧ s.driver ≠ .uninitialized ∧ 1 ≤ s.params.iterCeiling) := by
  decide +kernel

/-- `EI` with IME clear, with IME about to rise and with IME set, and what a `NOP`, a `DI` and an `EI` after it leave
(`95_test_vectors.md`, System instructions, rows 13 and 14). -/
theorem test_witness_ei :
    (∀ s ∈ [start [0xFB], { start [0xFB] with eiPending := true, ie := 1, ifReg := 1 }, { start [0xFB] with ime := true }],
      s.run = .running ∧ irqToTake s = none ∧ memRead s s.regs.pc = 0xFB) ∧
    gives (start [0xFB, 0x00]) (fun t => (irqToTake t).isNone && gives t (fun u => u.ime && !u.eiPending)) = true ∧
    gives (start [0xFB, 0xF3]) (fun t => gives t (fun u => !u.ime && !u.eiPending)) = true ∧
    gives (start [0xFB, 0xFB]) (fun t => gives t (fun u => u.ime && u.eiPending)) = true := by
  decide +kernel

/-- A running step, a stopped step, a step that ends in the fatal condition. -/
theorem test_witness_cycles :
    (∃ t, step (start []) = .next t ∧ (t.report == .cycles 4) = true) ∧
    (∃ t, step { start [] with run := .stopped } = .next t ∧ (t.report == .cycles 0) = true) ∧
    ∃ t, step (start [0xD3]) = .next t ∧ (t.report == .illegalInstruction 0xD3 0x0100) = true :=
  ⟨of_gives (by decide +kernel), of_gives (by decide +kernel), of_gives (by decide +kernel)⟩

theorem test_witness_flags :
    writesFlags (.ldRN .a 0) = false ∧ ∃ t, exec (.ldRN .a 0) (start []) = .next t ∧ (t.regs.f == 0xB0) = true :=
  ⟨rfl, of_execGives (by decide +kernel)⟩

/-- IME rises by a pending `EI` and by `RETI`, and falls by a dispatch and by `DI`. -/
theorem test_witness_ime :
    (∃ t, step { start [] with eiPending := true } = .next t ∧ t.ime = true) ∧
    (∃ t, step (start [0xD9]) = .next t ∧ t.ime = true) ∧
    (∃ t, step { start [] with ime := true, ie := 1, ifReg := 1 } = .next t ∧ (!t.ime) = true) ∧
    ∃ t, step { start [0xF3] with ime := true } = .next t ∧ (!t.ime) = true :=
  ⟨of_gives (by decide +kernel), of_gives (by decide +kernel), of_gives (by decide +kernel), of_gives (by decide +kernel)⟩

theorem test_witness_run_state :
    (∃ t, step { start [] with run := .halted, ie := 4, ifReg := 4 } = .next t ∧ (t.run != .halted) = true) ∧
    (∃ t, step (start [0x76]) = .next t ∧ (t.run == .halted) = true) ∧
    (∃ t, step (start [0x10, 0xFF]) = .next t ∧ (t.run == .stopped) = true) ∧
    (∃ t, step (start [0xFD]) = .next t ∧ (t.run == .faulted 0xFD 0x0100) = true) ∧
    ∃ t, step { start [] with run := .stopped } = .next t ∧ (t.run == .stopped) = true :=
  ⟨of_gives (by decide +kernel), of_gives (by decide +kernel), of_gives (by decide +kernel), of_gives (by decide +kernel),
    of_gives (by decide +kernel)⟩

/-- The cartridges of these tests are as a load makes them. -/
theorem test_witness_cartridge : CartridgeOk (bankCart .mbc1) ∧ CartridgeOk (bankCart .mbc2) ∧ CartridgeOk (cartWith [0x3E]) :=
  ⟨⟨by decide, by decide, by decide, by decide, by decide, by decide⟩,
   ⟨by decide, by decide, by decide, by decide, by decide, by decide⟩,
   ⟨by decide +kernel, by decide +kernel, by decide, by decide, by decide, by decide⟩⟩

/-- A state with every invariant, at the last dot of the frame, with the window drawn on every line, and its step. -/
def lastDot : State :=
  { resetState Params.default (some (bankCart .mbc1)) with
    lcd.ly := 153, ppu.dot := 455, ppu.mode := .vBlank, ppu.wlc := 144, mbc.romLo := 31, mbc.bank2 := 3
    ram.vram := [(8191, 1)], ram.cram := [(32767, 0xFF)] }

theorem test_witness_invariants :
    FlagsOk lastDot ∧ MemoryOk lastDot ∧ PpuOk lastDot ∧ MbcOk lastDot ∧
      ∃ t, step lastDot = .next t ∧ (t.lcd.ly == 0 && t.ppu.dot == 3 && t.ppu.wlc == 0) = true := by
  refine ⟨show lastDot.regs.f &&& 0x0F = 0 by decide, ⟨by decide, by decide, by decide, by decide, by decide, ?_⟩,
    ⟨by decide, by decide, fun _ => by decide, fun h => absurd h (by decide), by decide⟩, ?_, of_gives (by decide +kernel)⟩
  · intro c h
    cases h
    exact test_witness_cartridge.1
  · intro c h
    cases h
    show mbcInRange .mbc1 _
    exact ⟨by decide, by decide, by decide⟩

/-- A row of the undefined bytes, and a first byte that is none of them. -/
theorem test_witness_undefined :
    (0xD3, Instr.illegalD3) ∈ undefinedRows ∧ (∀ row ∈ undefinedRows, row.1 ≠ 0xCB) ∧
      ∃ t, exec (decodeBytes 0xCB 0x37 0x00) (start []) = .next t ∧ (t.report == .cycles 8) = true :=
  ⟨by decide, by decide, of_execGives (by decide +kernel)⟩

/-- The decoder at both ends of every range, and each lock closed and open. -/
theorem test_witness_regions :
    [0x0000, 0x7FFF, 0x8000, 0x9FFF, 0xA000, 0xBFFF, 0xC000, 0xDFFF, 0xE000, 0xFDFF].map region =
      [.rom, .rom, .vram 0, .vram 0x1FFF, .cram, .cram, .wram 0, .wram 0x1FFF, .wram 0, .wram 0x1DFF] ∧
    [0xFE00, 0xFE9F, 0xFEA0, 0xFEFF, 0xFF00, 0xFF7F, 0xFF80, 0xFFFE, 0xFFFF].map region =
      [.oam 0, .oam 159, .unmapped, .unmapped, .io, .io, .hram 0, .hram 126, .ie] ∧
    [onLine 0 0, onLine 0 80, onLine 0 252, onLine 144 0, start []].map (fun s => (vramLocked s, oamLocked s)) =
      [(false, true), (true, true), (false, false), (false, false), (false, false)] := by
  decide +kernel

/-- Addresses on both sides of the registers, inside and outside the I/O range. -/
theorem test_witness_no_io_register :
    ∀ a ∈ [0xFF00, 0xFF03, 0xFF08, 0xFF0E, 0xFF10, 0xFF3F, 0xFF4C, 0xFF7F, 0x0000],
      a ∉ [0xFF04, 0xFF05, 0xFF06, 0xFF07, 0xFF0F, 0xFF40, 0xFF41, 0xFF42, 0xFF43, 0xFF44, 0xFF45, 0xFF46, 0xFF47,
        0xFF48, 0xFF49, 0xFF4A, 0xFF4B] := by
  decide

theorem test_witness_lcd_switch :
    (State.reset.lcd.lcdc.getLsbD 7 = true ∧ (0x80 : Byte).getLsbD 7 = true ∧ (0x7F : Byte).getLsbD 7 = false) ∧
      (start []).lcd.lcdc.getLsbD 7 = false := by
  decide +kernel

/-- Each kind of byte, through a mirror where there is one, and two bytes that no write joins. -/
theorem test_witness_read_after_write :
    (region 0xE000 = region 0xC000 ∧ region 0xC000 = .wram 0) ∧ region 0xFFFE = .hram 126 ∧ region 0xFFFF = .ie ∧
    (region 0x9FFF = .vram 8191 ∧ vramLocked (onLine 0 79) = false) ∧
    (region 0xFE9F = .oam 159 ∧ oamLocked (onLine 0 252) = false) ∧
    (region 0xBE00 = region 0xA000 ∧ region 0xA000 = .cram ∧ cramIndex (banked .mbc2) 0xA000 = some 0 ∧
      cramIndex (banked .mbc2) 0xBE00 = some 0 ∧ (banked .mbc2).cart = some (bankCart .mbc2)) ∧
    (cramIndex (banked .mbc1) 0xBFFF = some 8191 ∧ (banked .mbc1).cart = some (bankCart .mbc1)) ∧
    ¬ MayChange (start []) 0xC000 0xC001 ∧ ¬ MayChange (start []) 0xFF44 0xFF44 := by
  refine ⟨by decide, by decide, by decide, by decide +kernel, by decide +kernel, ?_, ?_, ?_, ?_⟩
  · exact ⟨by decide, by decide, by decide +kernel, by decide +kernel, rfl⟩
  · exact ⟨by decide +kernel, rfl⟩
  · intro h
    exact absurd (show region 0xC001 = region 0xC000 from h) (by decide)
  · exact fun h => h

/-- Each variant's control range at both ends. -/
theorem test_witness_bank_select :
    (∀ v ∈ [Variant.noBanking, .mbc1, .mbc2, .mbc3, .mbc5], (banked v).cart = some (bankCart v) ∧ (bankCart v).variant = v) ∧
    (0x4000 ≤ (0x4000 : Word).toNat ∧ (0x7FFF : Word).toNat ≤ 0x7FFF) ∧
    (0x2000 ≤ (0x2000 : Word).toNat ∧ (0x3FFF : Word).toNat ≤ 0x3FFF) ∧
    ((0x0100 : Word).toNat / 256 % 2 = 1 ∧ (0x3F00 : Word).toNat / 256 % 2 = 1 ∧ (0x3F00 : Word).toNat ≤ 0x3FFF) ∧
    ((0x2FFF : Word).toNat ≤ 0x2FFF ∧ 0x3000 ≤ (0x3000 : Word).toNat) ∧
    ((0x3FFF : Word).toNat ≤ 0x3FFF ∧ 0x4000 ≤ (0x4000 : Word).toNat ∧ (0x5FFF : Word).toNat ≤ 0x5FFF ∧
      0x6000 ≤ (0x6000 : Word).toNat) ∧ State.reset.cart = none := by
  refine ⟨?_, by decide, by decide, by decide, by decide, by decide, rfl⟩
  intro v hv
  simp only [List.mem_cons, List.not_mem_nil, or_false] at hv
  rcases hv with rfl | rfl | rfl | rfl | rfl <;> exact ⟨rfl, rfl⟩

/-- No cartridge, no RAM, RAM disabled, a clock register selected, and RAM that answers. -/
theorem test_witness_cartridge_ram :
    State.reset.cart = none ∧ (start []).cart = some (cartWith []) ∧ (cartWith []).ramSize = 0 ∧
    (lastDot.cart = some (bankCart .mbc1) ∧ lastDot.mbc.ramEn = false) ∧
    ((banked .mbc3).mbc.ramEn = true ∧ (memWrite (banked .mbc3) 0x5FFF 0x08).mbc.bank2.getLsbD 3 = true) ∧
    ((bankCart .mbc3).ramSize ≠ 0 ∧ (banked .mbc3).mbc.bank2.toNat < 8) ∧
    ((0x1FFF : Word).toNat ≤ 0x1FFF ∧ (0x3EFF : Word).toNat ≤ 0x3FFF ∧ (0x3EFF : Word).toNat / 256 % 2 = 0) := by
  refine ⟨rfl, rfl, rfl, ⟨rfl, rfl⟩, ?_, ?_, by decide⟩
  · decide +kernel
  · decide +kernel

/-- The timer off, on without and on with a reload, at the last count of each. -/
theorem test_witness_timer :
    ({ start [] with timer.tac := 3 } : State).timer.tac.getLsbD 2 = false ∧
    (let s := { start [] with timer.tac := 5, timer.tima := 0xFE }
     s.timer.tac.getLsbD 2 = true ∧ s.timer.tima.toNat + ((s.timer.sys.toNat + 31) / 16 - s.timer.sys.toNat / 16) < 256) ∧
    (let s := { start [] with timer.tac := 5, timer.tima := 0xFE }
     256 ≤ s.timer.tima.toNat + ((s.timer.sys.toNat + 32) / 16 - s.timer.sys.toNat / 16)) := by
  decide +kernel

theorem test_witness_frame :
    State.reset.lcd.lcdc.getLsbD 7 = true ∧ State.reset.lcd.ly = 0 ∧ State.reset.ppu.dot = 0 ∧
      State.reset.ppu.mode = .oamScan ∧ State.reset.ppu.redrawPending = false := ⟨by decide, rfl, rfl, rfl, rfl⟩

/-- The dots of every event. -/
theorem test_witness_dot :
    PpuOk (onLine 143 455) ∧ PpuOk (onLine 0 251) ∧ PpuOk (onLine 153 455) ∧ (onLine 143 455).lcd.lcdc.getLsbD 7 = true := by
  refine ⟨⟨by decide, by decide, fun _ => rfl, fun h => absurd h (by decide), by decide⟩,
    ⟨by decide, by decide, fun _ => rfl, fun h => absurd h (by decide), by decide⟩,
    ⟨by decide, by decide, fun _ => rfl, fun h => absurd h (by decide), by decide⟩, by decide⟩

/-- Sprites off; the corners of the screen. -/
theorem test_witness_line : State.reset.lcd.lcdc.getLsbD 1 = false ∧ 143 < 144 ∧ 159 < 160 := by decide

/-- Two sprites with one X: the first wins at x = 0, the second at x = 6, where the first is transparent; at x = 8 there is
none. -/
theorem test_witness_sprites :
    (let a := spriteAt twoSprites.ram.oam 0
     let b := spriteAt twoSprites.ram.oam 1
     spritesOnLine twoSprites 0 = [a, b] ∧ a.x ≤ b.x ∧ spritePixel twoSprites 0 0 a = some 3 ∧
      spritePixel twoSprites 0 6 a = none ∧ spritePixel twoSprites 0 6 b = some 3) ∧
    (∀ sp ∈ spritesOnLine twoSprites 0, ¬ (spritePixel twoSprites 0 8 sp).isSome = true) := by
  decide +kernel

/-- The first and the last pixel that an entry covers, on its first line, and the columns beside them. -/
theorem test_witness_sprite_pixel :
    let sp := spriteAt twoSprites.ram.oam 0
    (sp.x ≤ 0 + 8 ∧ 0 + 8 < sp.x + 8) ∧ (sp.x ≤ 7 + 8 ∧ 7 + 8 < sp.x + 8) ∧ ¬ (8 + 8 < sp.x + 8) ∧
      (sp.y ≤ 0 + 16 ∧ 0 + 16 < sp.y + 8) := by
  decide +kernel

theorem test_witness_driver :
    ({ start [] with driver := .uninitialized } : State).driver = .uninitialized ∧ State.reset.driver ≠ .uninitialized := by
  decide +kernel

/-- An answer within line 144, and the fatal condition, each at the last iteration that the ceiling allows. -/
theorem test_witness_run_answers :
    (match runUntilRedraw { onLine 143 455 with params.iterCeiling := 1 } with
      | .next (t, .frameReady true) => t.params.haltTick ≤ 24 && t.ppu.dot == 3 | _ => false) = true ∧
    (match runUntilRedraw { start [0xD3] with params.iterCeiling := 1 } with
      | .next (t, .raised 0xD3 0x0100) => t.run == .faulted 0xD3 0x0100 | _ => false) = true ∧
    ({ start [] with run := .halted } : State).lcd.lcdc.getLsbD 7 = false := by
  decide +kernel

/-- A stopped machine; a halted one at the start of a frame, with every enable off and a ceiling that is just enough. -/
theorem test_witness_run_until_redraw :
    ({ State.reset with run := .stopped } : State).driver ≠ .uninitialized ∧
    (let s := { State.reset with run := .halted, ie := 0xE0, params.iterCeiling := 65664 }
     s.driver ≠ .uninitialized ∧ s.run = .halted ∧ s.ie.toNat % 32 = 0 ∧ s.params.haltTick = 1 ∧
      65664 ≤ s.params.iterCeiling ∧ s.lcd.lcdc.getLsbD 7 = true ∧ s.lcd.ly = 0 ∧ s.ppu.dot = 0 ∧
      s.ppu.mode = .oamScan) := by
  decide +kernel

end Sys2Proof.Tests
end

section
/-! The scope family: what one step is, its decoding, its waiting in HALTED, and its bookkeeping of cycles. -/

namespace Sys2Proof

/-! ## The decoder yields well-formed instructions -/

theorem decodeQuadrant0_wellFormed (op b1 b2 : Byte) : (decodeQuadrant0 op b1 b2).wellFormed = true := by
  unfold decodeQuadrant0
  split <;> split <;> rfl

theorem decodeQuadrant1_wellFormed (op : Byte) : (decodeQuadrant1 op).wellFormed = true := by
  unfold decodeQuadrant1
  split <;> rfl

theorem decodeQuadrant2_wellFormed (op : Byte) : (decodeQuadrant2 op).wellFormed = true := by
  unfold decodeQuadrant2
  split <;> split <;> rfl

theorem decodeQuadrant3_wellFormed (op b1 b2 : Byte) : (decodeQuadrant3 op b1 b2).wellFormed = true := by
  unfold decodeQuadrant3
  split
  · split <;> rfl
  · split <;> split <;> rfl
  · split <;> rfl
  · split
    exacts [rfl, decodeCb_wellFormed b1, rfl, rfl, rfl, rfl, rfl, rfl]
  · split <;> rfl
  · split <;> split <;> rfl
  · split <;> rfl
  · rfl

/-- Whatever three bytes stand at PC, what they decode to is well formed (`30_encoding.md` rules R208, R211). -/
theorem decodeBytes_wellFormed (op b1 b2 : Byte) : (decodeBytes op b1 b2).wellFormed = true := by
  unfold decodeBytes
  split
  · exact decodeQuadrant0_wellFormed op b1 b2
  · exact decodeQuadrant1_wellFormed op
  · exact decodeQuadrant2_wellFormed op
  · exact decodeQuadrant3_wellFormed op b1 b2

end Sys2Proof

namespace Sys2Proof.Machine

/-! ## The pending set, bit by bit -/

theorem State.pending_getLsbD (s : State) {j : Nat} (hj : j < 5) :
    s.pending.getLsbD j = (s.ie.getLsbD j && s.ifReg.getLsbD j) := by
  simp [State.pending, hj]

/-- No request is pending where no enable meets a request in any of the five bits (`60_exceptions.md` rule R505). -/
theorem State.pending_eq_zero_iff (s : State) :
    s.pending = 0 ↔ ∀ j < 5, (s.ie.getLsbD j && s.ifReg.getLsbD j) = false := by
  constructor
  · intro h j hj
    rw [← s.pending_getLsbD hj, h]
    exact BitVec.getLsbD_zero
  · intro h
    refine BitVec.eq_of_getLsbD_eq fun j hj => ?_
    rw [s.pending_getLsbD hj, h j hj]
    exact BitVec.getLsbD_zero.symm

/-! ## The CPU step, one equation per run state -/

theorem cpuStep_of_running {s : State} (h : s.run = .running) : cpuStep s = dispatchOrExecute s := by
  rw [cpuStep, h]

theorem cpuStep_of_halted {s : State} (h : s.run = .halted) :
    cpuStep s =
      if s.pending = 0 then .next (s.tick s.params.haltTick) else dispatchOrExecute (s.setRun .running) := by
  rw [cpuStep, h]

theorem dispatchOrExecute_of_none {s : State} (h : irqToTake s = none) :
    dispatchOrExecute s = fetchExecute (promoteEi s) := by
  rw [dispatchOrExecute, h]

/-! ## Promotion is on the CPU's side: it moves no register and no byte -/

@[simp] theorem promoteEi_regs (s : State) : (promoteEi s).regs = s.regs := by
  unfold promoteEi
  split <;> rfl

@[simp] theorem promoteEi_cycles (s : State) : (promoteEi s).cycles = s.cycles := by
  unfold promoteEi
  split <;> rfl

@[simp] theorem fetchedInstr_promoteEi (s : State) : fetchedInstr (promoteEi s) = fetchedInstr s := by
  unfold promoteEi
  split <;> rfl

@[simp] theorem pcPast_cycles (i : Instr) (s : State) : (pcPast i s).cycles = s.cycles := rfl

theorem fetchedInstr_wellFormed (s : State) : (fetchedInstr s).wellFormed = true := decodeBytes_wellFormed _ _ _

/-- The three bytes at PC decode to the instruction that the step fetches. -/
theorem decode_at_pc (s : State) :
    decode [memRead s s.regs.pc, memRead s (s.regs.pc + 1), memRead s (s.regs.pc + 2)] =
      .ok (fetchedInstr s, [memRead s (s.regs.pc + 1), memRead s (s.regs.pc + 2)].drop ((fetchedInstr s).length - 1)) :=
  decode_three _ _ _

/-- A running step with no interrupt to take executes the fetched instruction, past it, with a pending `EI` promoted. -/
theorem cpuStep_of_running_of_none {s : State} (hr : s.run = .running) (hq : irqToTake s = none) :
    cpuStep s =
      exec (fetchedInstr s) ((promoteEi s).setPc (s.regs.pc + BitVec.ofNat 16 (fetchedInstr s).length)) := by
  rw [cpuStep_of_running hr, dispatchOrExecute_of_none hq, fetchExecute, fetchedInstr_promoteEi, pcPast, promoteEi_regs]

/-! ## What an instruction books -/

@[simp] theorem push16_cycles (s : State) (v : Word) : (push16 s v).cycles = s.cycles := by simp [push16_eq]

@[simp] theorem callTo_cycles (target : Word) (s : State) : (callTo target s).cycles = s.cycles := by simp [callTo_eq]

@[simp] theorem modifyHl_cycles (f : Byte → AluResult) (s : State) : (modifyHl f s).cycles = s.cycles :=
  memWrite_cycles _ _ _

/-- A duration of the opcode table, and of a dispatch: a multiple of 4 from 4 to 24 (`00_scope.md` rule R19). -/
def IsDuration (n : Nat) : Prop := n % 4 = 0 ∧ 4 ≤ n ∧ n ≤ 24

/-- The outcome `o` of an instruction executed in `s` is `finish` of a state that has booked nothing yet. -/
def Finishes (s : State) (o : Host.Outcome State Fault Refusal) : Prop :=
  ∃ n u, o = finish n u ∧ IsDuration n ∧ u.cycles = s.cycles

theorem Finishes.intro {s u : State} {n : Nat} (hu : u.cycles = s.cycles)
    (hn : n % 4 = 0 ∧ 4 ≤ n ∧ n ≤ 24 := by decide) : Finishes s (finish n u) :=
  ⟨n, u, rfl, hn, hu⟩

theorem Finishes.ite {s : State} {c : Prop} [Decidable c] {o p : Host.Outcome State Fault Refusal}
    (ho : Finishes s o) (hp : Finishes s p) : Finishes s (if c then o else p) := by
  split
  · exact ho
  · exact hp

/-- Every instruction that a decoder yields books one duration, or is an undefined first byte. -/
theorem exec_finishes_or_raises {i : Instr} (hi : i.wellFormed = true) (s : State) :
    Finishes s (exec i s) ∨ ∃ op, exec i s = raiseIllegal op s := by
  cases i
  case prefixCb => cases hi
  case illegalD3 | illegalDB | illegalDD | illegalE3 | illegalE4 | illegalEB | illegalEC | illegalED | illegalF4
    | illegalFC | illegalFD => exact .inr ⟨_, rfl⟩
  case jpCcNn | jrCcE | retCc => exact .inl (.ite (.intro rfl) (.intro rfl))
  case callCcNn => exact .inl (.ite (.intro (callTo_cycles _ _)) (.intro rfl))
  case callNn | rst => exact .inl (.intro (callTo_cycles _ _))
  case pushRr | pushAf => exact .inl (.intro (push16_cycles _ _))
  case incHl | decHl | rlcHl | rrcHl | rlHl | rrHl | slaHl | sraHl | swapHl | srlHl =>
    exact .inl (.intro (modifyHl_cycles _ _))
  case ldHlR | ldHlN | ldBcA | ldDeA | ldNnA | ldhCA | ldhNA | ldHlDecA | ldHlIncA | resHl | setHl =>
    exact .inl (.intro (memWrite_cycles _ _ _))
  case ldNnSp => exact .inl (.intro ((memWrite_cycles _ _ _).trans (memWrite_cycles _ _ _)))
  all_goals exact .inl (.intro rfl)

/-! ## What a CPU step books -/

/-- `t` reports a duration that its counter has taken since `s`, or the fatal condition with the counter as it was. -/
def Books (s t : State) : Prop :=
  (∃ n, Took n s t ∧ IsDuration n) ∨ ∃ op pc, t.report = .illegalInstruction op pc ∧ t.cycles = s.cycles

/-- Of the state before a step only the counter matters for what the step books. -/
theorem Books.of_cycles_eq {s u t : State} (h : u.cycles = s.cycles) (hb : Books u t) : Books s t := by
  rcases hb with ⟨n, took, hn⟩ | ⟨op, pc, hrep, hcyc⟩
  · exact .inl ⟨n, ⟨h ▸ took.cycles, took.report⟩, hn⟩
  · exact .inr ⟨op, pc, hrep, hcyc.trans h⟩

theorem exec_books {i : Instr} (hi : i.wellFormed = true) {s t : State} (h : exec i s = .next t) : Books s t := by
  rcases exec_finishes_or_raises hi s with ⟨n, u, e, hn, hu⟩ | ⟨op, e⟩
  · obtain rfl := (finish_next n u t).mp (e ▸ h)
    exact .inl ⟨n, ⟨congrArg (· + n) hu, rfl⟩, hn⟩
  · obtain rfl := (raiseIllegal_next op s t).mp (e ▸ h)
    exact .inr ⟨_, _, rfl, rfl⟩

theorem dispatchIrq_books (q : Irq) (s : State) : Books s (dispatchIrq q s) := by
  rw [dispatchIrq_eq]
  exact .inl ⟨dispatchCycles, ⟨congrArg (· + dispatchCycles) (push16_cycles _ _), rfl⟩, by decide, by decide, by decide⟩

/-- A CPU step is a stopped no-op, a halted tick, or one that books a duration or the fatal condition. -/
theorem cpuStep_books {s t : State} (h : cpuStep s = .next t) :
    (s.run = .stopped ∧ Took 0 s t) ∨ (s.run = .halted ∧ Took s.params.haltTick s t) ∨ (Awake s ∧ Books s t) := by
  rcases cpuStep_cases h with ⟨hr, rfl⟩ | ⟨hr, -, rfl⟩ | ⟨hw, q, -, rfl⟩ | ⟨hw, -, e⟩
  · exact .inl ⟨hr, rfl, rfl⟩
  · exact .inr (.inl ⟨hr, rfl, rfl⟩)
  · exact .inr (.inr ⟨hw, (dispatchIrq_books q (s.setRun .running)).of_cycles_eq (State.setRun_cycles s .running)⟩)
  · exact .inr (.inr ⟨hw, (exec_books (fetchedInstr_wellFormed s) e).of_cycles_eq (by simp)⟩)

theorem Awake.run_ne_stopped {s : State} (h : Awake s) : s.run ≠ .stopped := by
  rcases h with hr | ⟨hr, -⟩ <;> simp [hr]

/-! ## The obligations -/

/-- Settles O7: the test of a pending request is the statement's five bits, and the waking step is `dispatchOrExecute` of
the machine set running, which is what a running machine's step is. -/
theorem aHaltedStepWaitsForAnEnabledRequest : Obligations.AHaltedStepWaitsForAnEnabledRequest := by
  intro s hr
  rw [cpuStep_of_halted hr]
  constructor
  · intro hnone
    rw [if_pos (s.pending_eq_zero_iff.mpr hnone)]
    rfl
  · intro j hj hreq
    have hp : s.pending ≠ 0 := fun h => by simp [s.pending_eq_zero_iff.mp h j hj] at hreq
    rw [if_neg hp]
    rfl

/-- Settles O11, from what a CPU step books; the devices change neither the counter nor the report. -/
theorem theCounterTakesTheReportedCycles : Obligations.TheCounterTakesTheReportedCycles := by
  intro s t h
  obtain ⟨u, e, rfl⟩ := step_cases h
  rw [advanceDevices_report, advanceDevices_cycles]
  rcases cpuStep_books e with ⟨hr, took⟩ | ⟨hr, took⟩ | ⟨hw, ⟨n, took, hn⟩ | ⟨op, pc, hrep, hcyc⟩⟩
  · rw [took.report]
    exact ⟨took.cycles, by simp [hr], fun _ => rfl⟩
  · rw [took.report]
    exact ⟨took.cycles, by simp [hr], by simp [hr]⟩
  · rw [took.report]
    exact ⟨took.cycles, fun _ => hn, fun hs => absurd hs hw.run_ne_stopped⟩
  · rw [hrep]
    exact hcyc

/-- Settles O5: the instruction decoded at PC is the one the step fetches, and the devices follow its report. -/
theorem aStepRunsTheInstructionDecodedAtPc : Obligations.AStepRunsTheInstructionDecodedAtPc := by
  intro s i rest hr hq hd
  rw [decode_at_pc] at hd
  obtain ⟨rfl, -⟩ := Prod.mk.inj (Except.ok.inj hd)
  refine ⟨fetchedInstr_wellFormed s, ?_⟩
  rw [step, iteration, cpuStep_of_running_of_none hr hq]
  cases exec (fetchedInstr s) _ <;> rfl

end Sys2Proof.Machine
end

section
/-! The state family, the invariants: what every step keeps of the flags, the memories, the bank controller, the
scanline state machine and the loaded cartridge. Each is closed under the parts of an instruction, a timer cycle and a
dot, and `Closed.step` carries it over a step. -/

namespace Sys2Proof.Machine

/-! ## What a timer cycle, a dot and an I/O write leave alone -/

@[simp] theorem timerCycle_params (s : State) : (timerCycle s).params = s.params := by rw [timerCycle_eq]
@[simp] theorem timerCycle_regs (s : State) : (timerCycle s).regs = s.regs := by rw [timerCycle_eq]
@[simp] theorem timerCycle_lcd (s : State) : (timerCycle s).lcd = s.lcd := by rw [timerCycle_eq]
@[simp] theorem timerCycle_ppu (s : State) : (timerCycle s).ppu = s.ppu := by rw [timerCycle_eq]
@[simp] theorem timerCycle_ram (s : State) : (timerCycle s).ram = s.ram := by rw [timerCycle_eq]
@[simp] theorem timerCycle_cart (s : State) : (timerCycle s).cart = s.cart := by rw [timerCycle_eq]
@[simp] theorem timerCycle_mbc (s : State) : (timerCycle s).mbc = s.mbc := by rw [timerCycle_eq]
@[simp] theorem timerCycle_driver (s : State) : (timerCycle s).driver = s.driver := by rw [timerCycle_eq]

@[simp] theorem ppuDot_params (s : State) : (ppuDot s).params = s.params := by rw [ppuDot_eq]
@[simp] theorem ppuDot_regs (s : State) : (ppuDot s).regs = s.regs := by rw [ppuDot_eq]
@[simp] theorem ppuDot_ram (s : State) : (ppuDot s).ram = s.ram := by rw [ppuDot_eq]
@[simp] theorem ppuDot_cart (s : State) : (ppuDot s).cart = s.cart := by rw [ppuDot_eq]
@[simp] theorem ppuDot_mbc (s : State) : (ppuDot s).mbc = s.mbc := by rw [ppuDot_eq]
@[simp] theorem ppuDot_driver (s : State) : (ppuDot s).driver = s.driver := by rw [ppuDot_eq]

@[simp] theorem lcdcWrite_ram (v : Byte) (s : State) : (lcdcWrite v s).ram = s.ram := by rw [lcdcWrite_eq]
@[simp] theorem ioRegWrite_cart (s : State) (v : Byte) (r : IoReg) : (ioRegWrite s v r).cart = s.cart := by
  rw [ioRegWrite_eq]
@[simp] theorem ioRegWrite_mbc (s : State) (v : Byte) (r : IoReg) : (ioRegWrite s v r).mbc = s.mbc := by
  rw [ioRegWrite_eq]

/-! ## Properties of the devices' side -/

/-- A property that does not look at the CPU's side is closed where a Bus write keeps it. -/
theorem Closed.of_devices {P : State → Prop}
    (hcpu : ∀ s g ime ei run n report, P s →
      P { s with regs := g, ime := ime, eiPending := ei, run := run, cycles := n, report := report })
    (hwrite : ∀ s a v, P s → P (memWrite s a v)) : Closed P where
  regs s g h _ := hcpu s g _ _ _ _ _ h
  write := hwrite
  ime s b h := hcpu s _ b _ _ _ _ h
  ei s b h := hcpu s _ _ b _ _ _ h
  run s r h := hcpu s _ _ _ r _ _ h
  tick s n h := hcpu s _ _ _ _ (s.cycles + n) (.cycles n) h
  report s r h := hcpu s _ _ _ _ _ r h

/-- A Bus write reaches the bank controller by the ROM window, the devices by an I/O address, and else no more than a
memory or IE (`20_memory.md` rule R131). -/
theorem memWrite_cases (s : State) (a : Word) (v : Byte) :
    memWrite s a v = mbcControl s a.toNat v ∨ memWrite s a v = ioWrite s a v ∨
      ∃ ram ie, memWrite s a v = { s with ram := ram, ie := ie } := by
  cases hr : region a with
  | rom => exact .inl (memWrite_of_rom hr s v)
  | io => exact .inr (.inl (memWrite_of_io hr s v))
  | vram k => rw [memWrite_of_vram hr]; split <;> exact .inr (.inr ⟨_, _, rfl⟩)
  | cram => rw [memWrite_of_cram hr, cramWrite]; split <;> exact .inr (.inr ⟨_, _, rfl⟩)
  | wram k => rw [memWrite_of_wram hr]; exact .inr (.inr ⟨_, _, rfl⟩)
  | oam k => rw [memWrite_of_oam hr]; split <;> exact .inr (.inr ⟨_, _, rfl⟩)
  | unmapped => rw [memWrite_of_unmapped hr]; exact .inr (.inr ⟨_, _, rfl⟩)
  | hram k => rw [memWrite_of_hram hr]; exact .inr (.inr ⟨_, _, rfl⟩)
  | ie => rw [memWrite_of_ie hr]; exact .inr (.inr ⟨_, _, rfl⟩)

/-! ## The cartridge, the parameters and the driver state -/

/-- The cartridge, the parameters and the driver state are those of `s` (`10_state.md` rule R102). -/
structure KeepsLoad (s t : State) : Prop where
  cart   : t.cart = s.cart
  params : t.params = s.params
  driver : t.driver = s.driver

theorem KeepsLoad.closed (s : State) : Closed (KeepsLoad s) :=
  .of_devices (fun _ _ _ _ _ _ _ h => ⟨h.cart, h.params, h.driver⟩) fun u a v h =>
    ⟨(memWrite_cart u a v).trans h.cart, (memWrite_params u a v).trans h.params, (memWrite_driver u a v).trans h.driver⟩

theorem step_keepsLoad {s t : State} (h : step s = .next t) : KeepsLoad s t :=
  (KeepsLoad.closed s).step (fun _ _ h => ⟨h.cart, h.params, h.driver⟩)
    (fun u h => ⟨(timerCycle_cart u).trans h.cart, (timerCycle_params u).trans h.params,
      (timerCycle_driver u).trans h.driver⟩)
    (fun u _ h => ⟨(ppuDot_cart u).trans h.cart, (ppuDot_params u).trans h.params, (ppuDot_driver u).trans h.driver⟩)
    ⟨rfl, rfl, rfl⟩ h

/-! ## The low nibble of F -/

theorem FlagsOk.congr {s t : State} (h : FlagsOk s) (hregs : t.regs = s.regs) : FlagsOk t := by
  rwa [FlagsOk, hregs]

/-- The low nibble is the one fact on which the rule for register writes relies. -/
theorem FlagsOk.closed : Closed FlagsOk where
  regs _ _ h hg := hg h
  write s a v h := h.congr (memWrite_regs s a v)
  ime _ _ h := h
  ei _ _ h := h
  run _ _ h := h
  tick _ _ h := h
  report _ _ h := h

/-! ## The memories -/

theorem Memory.ok_write {m : Memory} {n k : Nat} (h : m.wf ∧ m.below n) (hk : k < n) (v : Byte) :
    (m.write k v).wf ∧ (m.write k v).below n :=
  ⟨Memory.wf_write h.1 k v, Memory.below_write h.2 hk v⟩

theorem MemoryOk.congr {s t : State} (h : MemoryOk s) (hram : t.ram = s.ram) (hcart : t.cart = s.cart) :
    MemoryOk t := by
  obtain ⟨vram, wram, oam, hram', cram, cart⟩ := h
  have hsize : t.ramSize = s.ramSize := by rw [State.ramSize, State.ramSize, hcart]
  constructor <;> simpa only [hram, hcart, hsize]

/-- An index that the RAM window gives is inside the cartridge's RAM (`20_memory.md` rules R157, R166). -/
theorem cramIndex_lt {s : State} (hcart : ∀ c, s.cart = some c → CartridgeOk c) {a k : Nat}
    (h : cramIndex s a = some k) : k < s.ramSize := by
  unfold cramIndex at h
  unfold State.ramSize
  cases hc : s.cart with
  | none => simp [hc] at h
  | some c =>
    simp only [hc] at h ⊢
    split at h
    · cases h
    · rename_i hr
      have hpos : 0 < c.ramSize := Nat.pos_of_ne_zero (by simp_all)
      cases hv : c.variant
      case mbc2 =>
        simp only [hv, Option.some.injEq] at h
        have := (hcart c hc).mbc2Ram hv
        omega
      all_goals
        simp only [hv, Option.some.injEq] at h
        exact h ▸ Nat.mod_lt _ hpos

/-- What the copy of each byte keeps, the OAM copy keeps (rule R145). -/
theorem oamCopy_keeps {P : State → Prop} {v : Byte} (hbyte : ∀ s i, i < oamSize → P s → P (oamCopyByte v s i))
    {s : State} (h : P s) : P (oamCopy v s) :=
  List.foldlRecOn _ _ h fun s hs i hi => hbyte s i (List.mem_range.mp hi) hs

theorem MemoryOk.writeIoReg {s : State} (h : MemoryOk s) (v : Byte) (r : IoReg) : MemoryOk (ioRegWrite s v r) := by
  cases r
  case lcdc => exact h.congr (lcdcWrite_ram v s) (ioRegWrite_cart s v .lcdc)
  case dma =>
    exact oamCopy_keeps (s := { s with lcd.dma := v }) (fun _ _ hi h => { h with oam := Memory.ok_write h.oam hi _ })
      (h.congr rfl rfl)
  all_goals exact h.congr rfl rfl

theorem MemoryOk.write {s : State} (h : MemoryOk s) (a : Word) (v : Byte) : MemoryOk (memWrite s a v) := by
  cases hr : region a with
  | rom =>
    rw [memWrite_of_rom hr, mbcControl]
    split
    · exact h
    · exact h.congr rfl rfl
  | vram k =>
    rw [memWrite_of_vram hr]
    split
    · exact h
    · exact { h with vram := Memory.ok_write h.vram (region_vram hr) v }
  | cram =>
    rw [memWrite_of_cram hr, cramWrite]
    split
    · exact h
    · rename_i k hk
      exact { h with cram := Memory.ok_write h.cram (cramIndex_lt h.cart hk) _ }
  | wram k =>
    rw [memWrite_of_wram hr]
    exact { h with wram := Memory.ok_write h.wram (region_wram hr) v }
  | oam k =>
    rw [memWrite_of_oam hr]
    split
    · exact h
    · exact { h with oam := Memory.ok_write h.oam (region_oam hr) v }
  | unmapped => rwa [memWrite_of_unmapped hr]
  | io =>
    rw [memWrite_of_io hr, ioWrite]
    split
    · exact h
    · exact h.writeIoReg v _
  | hram k =>
    rw [memWrite_of_hram hr]
    exact { h with hram := Memory.ok_write h.hram (region_hram hr) v }
  | ie =>
    rw [memWrite_of_ie hr]
    exact h.congr rfl rfl

theorem MemoryOk.closed : Closed MemoryOk :=
  .of_devices (fun _ _ _ _ _ _ _ h => h.congr rfl rfl) fun _ a v h => h.write a v

/-! ## The bank controller -/

theorem zeroToOne_inRange {v : Byte} {n : Nat} (h : v.toNat < n) (hn : 1 < n) :
    1 ≤ (zeroToOne v).toNat ∧ (zeroToOne v).toNat < n := by
  unfold zeroToOne
  split
  · exact ⟨by decide, hn⟩
  · rename_i hv
    exact ⟨Nat.pos_of_ne_zero fun h0 => hv (BitVec.eq_of_toNat_eq h0), h⟩

theorem and_toNat_lt (v mask : Byte) {n : Nat} (h : mask.toNat < n) : (v &&& mask).toNat < n := by
  rw [BitVec.toNat_and]
  exact Nat.lt_of_le_of_lt Nat.and_le_right h

/-- A control write stores a masked and adjusted field, or leaves it (rules R161, R164, R167). -/
theorem controlMbc_inRange {variant : Variant} {m : Mbc} (h : mbcInRange variant m) (a : Nat) (v : Byte) :
    mbcInRange variant (controlMbc variant m a v) := by
  cases variant
  case noBanking | mbc5 => trivial
  case mbc1 =>
    obtain ⟨hpos, hlt, hbank⟩ := h
    simp only [controlMbc, mbc1Control]
    split_ifs
    · exact ⟨hpos, hlt, hbank⟩
    · obtain ⟨hpos', hlt'⟩ := zeroToOne_inRange (and_toNat_lt v 0x1F (n := 32) (by decide)) (by decide)
      exact ⟨hpos', hlt', hbank⟩
    · have hv := and_toNat_lt v 0x03 (n := 4) (by decide)
      refine ⟨hpos, hlt, ?_⟩
      rw [BitVec.extractLsb'_toNat, Nat.shiftRight_zero]
      omega
    · exact ⟨hpos, hlt, hbank⟩
  case mbc2 =>
    simp only [controlMbc, mbc2Control]
    split_ifs
    · exact zeroToOne_inRange (and_toNat_lt v 0x0F (n := 16) (by decide)) (by decide)
    · exact h
    · exact h
  case mbc3 =>
    simp only [controlMbc, mbc3Control]
    split_ifs
    · exact h
    · exact zeroToOne_inRange (and_toNat_lt v 0x7F (n := 128) (by decide)) (by decide)
    · exact h
    · exact h

theorem MbcOk.congr {s t : State} (h : MbcOk s) (hcart : t.cart = s.cart) (hmbc : t.mbc = s.mbc) : MbcOk t := by
  rwa [MbcOk, hcart, hmbc]

theorem MbcOk.control {s : State} (h : MbcOk s) (a : Nat) (v : Byte) : MbcOk (mbcControl s a v) := by
  unfold mbcControl
  split
  · exact h
  · rename_i c hc
    intro c' hc'
    obtain rfl : c = c' := Option.some.inj (hc.symm.trans hc')
    exact controlMbc_inRange (h c hc) a v

theorem MbcOk.write {s : State} (h : MbcOk s) (a : Word) (v : Byte) : MbcOk (memWrite s a v) := by
  rcases memWrite_cases s a v with e | e | ⟨ram, ie, e⟩ <;> rw [e]
  · exact h.control _ v
  · unfold ioWrite
    split
    · exact h
    · exact h.congr (ioRegWrite_cart s v _) (ioRegWrite_mbc s v _)
  · exact h

theorem MbcOk.closed : Closed MbcOk :=
  .of_devices (fun _ _ _ _ _ _ _ h => h) fun _ a v h => h.write a v

/-! ## The scanline state machine -/

theorem PpuOk.congr {s t : State} (h : PpuOk s) (hon : t.lcdOn = s.lcdOn) (hly : t.lcd.ly = s.lcd.ly)
    (hppu : t.ppu = s.ppu) : PpuOk t := by
  obtain ⟨ly, dot, on, off, window⟩ := h
  constructor <;> simpa only [hon, hly, hppu]

/-- The invariant of a lit LCD at line `ly` and dot `dot`. -/
theorem PpuOk.of_on {t : State} {ly dot : Nat} (hon : t.lcdOn = true) (hly : t.lcd.ly.toNat = ly)
    (hdot : t.ppu.dot = dot) (ly_lt : ly < 154) (dot_lt : dot < 456) (mode : t.ppu.mode = modeAt ly dot)
    (window : t.ppu.wlc ≤ linesDrawn ly dot) : PpuOk t := by
  subst hly hdot
  exact ⟨ly_lt, dot_lt, fun _ => mode, fun hoff => by simp [hon] at hoff, window⟩

/-- The state at a frame's start with the LCD on, and at its switching off (`60_exceptions.md` rule R558). -/
theorem PpuOk.of_start {t : State} (ly : t.lcd.ly = 0) (dot : t.ppu.dot = 0) (wlc : t.ppu.wlc = 0)
    (mode : t.lcdOn = true → t.ppu.mode = .oamScan) : PpuOk t where
  ly := by rw [ly]; decide
  dot := by rw [dot]; decide
  on hon := by rw [ly, dot, mode hon]; rfl
  off _ := ⟨ly, dot⟩
  window := by rw [wlc]; exact Nat.zero_le _

/-! ### The entries of the modes -/

@[simp] theorem lycCheck_lcd (s : State) : (lycCheck s).lcd = s.lcd := State.requestIf_lcd _ _ _
@[simp] theorem lycCheck_ppu (s : State) : (lycCheck s).ppu = s.ppu := State.requestIf_ppu _ _ _

@[simp] theorem enterHBlank_lcd (s : State) : (enterHBlank s).lcd = s.lcd := State.requestIf_lcd _ _ _
@[simp] theorem enterHBlank_mode (s : State) : (enterHBlank s).ppu.mode = .hBlank := by simp [enterHBlank]
@[simp] theorem enterHBlank_dot (s : State) : (enterHBlank s).ppu.dot = s.ppu.dot := by simp [enterHBlank, renderLine]

/-- The window counter takes at most the line that is drawn (rule R563). -/
theorem enterHBlank_wlc_le (s : State) : (enterHBlank s).ppu.wlc ≤ s.ppu.wlc + 1 := by
  simp only [enterHBlank, renderLine, State.requestIf_ppu]
  split <;> omega

@[simp] theorem enterVBlank_lcd (s : State) : (enterVBlank s).lcd = s.lcd := State.requestIf_lcd _ _ _
@[simp] theorem enterVBlank_mode (s : State) : (enterVBlank s).ppu.mode = .vBlank := by simp [enterVBlank]
@[simp] theorem enterVBlank_dot (s : State) : (enterVBlank s).ppu.dot = s.ppu.dot := by simp [enterVBlank]
@[simp] theorem enterVBlank_wlc (s : State) : (enterVBlank s).ppu.wlc = s.ppu.wlc := by simp [enterVBlank]

@[simp] theorem enterOamScan_lcd (s : State) : (enterOamScan s).lcd = s.lcd := State.requestIf_lcd _ _ _
@[simp] theorem enterOamScan_mode (s : State) : (enterOamScan s).ppu.mode = .oamScan := by simp [enterOamScan]
@[simp] theorem enterOamScan_dot (s : State) : (enterOamScan s).ppu.dot = s.ppu.dot := by simp [enterOamScan]
@[simp] theorem enterOamScan_wlc (s : State) : (enterOamScan s).ppu.wlc = s.ppu.wlc := by simp [enterOamScan]

/-! ### The ends of the lines (rule R551) -/

@[simp] theorem endVisibleLine_lcd (s : State) : (endVisibleLine s).lcd = { s.lcd with ly := s.lcd.ly + 1 } := by
  simp only [endVisibleLine]
  split <;> simp
@[simp] theorem endVisibleLine_dot (s : State) : (endVisibleLine s).ppu.dot = 0 := by
  simp only [endVisibleLine]
  split <;> simp
@[simp] theorem endVisibleLine_wlc (s : State) : (endVisibleLine s).ppu.wlc = s.ppu.wlc := by
  simp only [endVisibleLine]
  split <;> simp
theorem endVisibleLine_mode (s : State) :
    (endVisibleLine s).ppu.mode = if (s.lcd.ly + 1).toNat = visibleLines then .vBlank else .oamScan := by
  simp only [endVisibleLine, lycCheck_ppu]
  split
  · exact enterVBlank_mode _
  · exact enterOamScan_mode _

/-- After line 153 the frame starts over (rule R557). -/
theorem endBlankLine_of_last {s : State} (h : (s.lcd.ly + 1).toNat = linesPerFrame) :
    endBlankLine s = lycCheck (enterOamScan { s with lcd.ly := 0, ppu.dot := 0, ppu.wlc := 0 }) := by
  simp only [endBlankLine, if_pos h]

theorem endBlankLine_of_not_last {s : State} (h : (s.lcd.ly + 1).toNat ≠ linesPerFrame) :
    endBlankLine s = lycCheck { s with lcd.ly := s.lcd.ly + 1, ppu.dot := 0 } := by
  simp only [endBlankLine, if_neg h]

/-! ### The mode and the lines drawn along a line (rule R557) -/

theorem modeAt_blank {ly dot : Nat} (h : 144 ≤ ly) : modeAt ly dot = .vBlank := if_pos h

theorem modeAt_oamScan {ly dot : Nat} (h : ly < 144) (hdot : dot < 80) : modeAt ly dot = .oamScan := by
  rw [modeAt, if_neg (by omega), if_pos hdot]

theorem modeAt_pixelTransfer {ly dot : Nat} (h : ly < 144) (hlo : 80 ≤ dot) (hhi : dot < 252) :
    modeAt ly dot = .pixelTransfer := by
  rw [modeAt, if_neg (by omega), if_neg (by omega), if_pos hhi]

theorem modeAt_hBlank {ly dot : Nat} (h : ly < 144) (hdot : 252 ≤ dot) : modeAt ly dot = .hBlank := by
  rw [modeAt, if_neg (by omega), if_neg (by omega), if_neg (by omega)]

/-- The mode changes within a line at the dots 80 and 252 of a visible line only. -/
theorem modeAt_succ {ly dot : Nat} (h : ly < 144 → dot + 1 ≠ 80 ∧ dot + 1 ≠ 252) :
    modeAt ly (dot + 1) = modeAt ly dot := by
  by_cases hblank : 144 ≤ ly
  · rw [modeAt_blank hblank, modeAt_blank hblank]
  · obtain ⟨h80, h252⟩ := h (Nat.not_le.mp hblank)
    have e80 : dot + 1 < 80 ↔ dot < 80 := by omega
    have e252 : dot + 1 < 252 ↔ dot < 252 := by omega
    simp only [modeAt, e80, e252]

theorem linesDrawn_blank {ly dot : Nat} (h : 144 ≤ ly) : linesDrawn ly dot = 144 := if_pos h

theorem linesDrawn_before {ly dot : Nat} (h : ly < 144) (hdot : dot < 252) : linesDrawn ly dot = ly := by
  rw [linesDrawn, if_neg (by omega), if_pos hdot]

theorem linesDrawn_after {ly dot : Nat} (h : ly < 144) (hdot : 252 ≤ dot) : linesDrawn ly dot = ly + 1 := by
  rw [linesDrawn, if_neg (by omega), if_neg (by omega)]

theorem linesDrawn_le_succ (ly dot : Nat) : linesDrawn ly dot ≤ linesDrawn ly (dot + 1) := by
  unfold linesDrawn
  split_ifs <;> omega

/-! ### One dot -/

/-- The dot counted, before what the new dot brings (rule R551). -/
def countDot (s : State) : State := { s with ppu.dot := s.ppu.dot + 1 }

/-- Everything a dot can do: the entry to mode 3, the entry to mode 0, the end of a visible line, the end of a v-blank
line, or nothing but the count (rule R551). -/
theorem ppuDot_cases (s : State) :
    (s.lcd.ly.toNat < 144 ∧ s.ppu.dot + 1 = 80 ∧ ppuDot s = { countDot s with ppu.mode := .pixelTransfer }) ∨
    (s.lcd.ly.toNat < 144 ∧ s.ppu.dot + 1 = 252 ∧ ppuDot s = enterHBlank (countDot s)) ∨
    (s.lcd.ly.toNat < 144 ∧ s.ppu.dot + 1 = 456 ∧ ppuDot s = endVisibleLine (countDot s)) ∨
    (144 ≤ s.lcd.ly.toNat ∧ s.ppu.dot + 1 = 456 ∧ ppuDot s = endBlankLine (countDot s)) ∨
    (s.ppu.dot + 1 ≠ 456 ∧ (s.lcd.ly.toNat < 144 → s.ppu.dot + 1 ≠ 80 ∧ s.ppu.dot + 1 ≠ 252) ∧
      ppuDot s = countDot s) := by
  simp only [ppuDot]
  split
  · rename_i hvis
    split
    · rename_i h80
      exact .inl ⟨hvis, h80, rfl⟩
    · rename_i h80
      split
      · rename_i h252
        exact .inr (.inl ⟨hvis, h252, rfl⟩)
      · rename_i h252
        split
        · rename_i h456
          exact .inr (.inr (.inl ⟨hvis, h456, rfl⟩))
        · rename_i h456
          exact .inr (.inr (.inr (.inr ⟨h456, fun _ => ⟨h80, h252⟩, rfl⟩)))
  · rename_i hblank
    split
    · rename_i h456
      exact .inr (.inr (.inr (.inl ⟨Nat.not_lt.mp hblank, h456, rfl⟩)))
    · rename_i h456
      exact .inr (.inr (.inr (.inr ⟨h456, fun hvis => absurd hvis hblank, rfl⟩)))

theorem endVisibleLine_ppuOk {s : State} (hon : s.lcdOn = true) (hly : s.lcd.ly.toNat < 144)
    (hwlc : s.ppu.wlc ≤ s.lcd.ly.toNat + 1) : PpuOk (endVisibleLine s) := by
  have hnext : (s.lcd.ly + 1).toNat = s.lcd.ly.toNat + 1 := by bv_omega
  refine .of_on (ly := s.lcd.ly.toNat + 1) (dot := 0) ?_ ?_ (endVisibleLine_dot s) (by omega) (by decide) ?_ ?_
  · rwa [State.lcdOn, endVisibleLine_lcd]
  · rw [endVisibleLine_lcd, ← hnext]
  · rw [endVisibleLine_mode, hnext]
    by_cases hv : s.lcd.ly.toNat + 1 = visibleLines
    · rw [if_pos hv, modeAt_blank hv.ge]
    · rw [if_neg hv, modeAt_oamScan (Nat.lt_of_le_of_ne hly hv) (by decide)]
  · rw [endVisibleLine_wlc]
    unfold linesDrawn
    split_ifs <;> omega

theorem endBlankLine_ppuOk {s : State} (hon : s.lcdOn = true) (hlo : 144 ≤ s.lcd.ly.toNat) (hhi : s.lcd.ly.toNat < 154)
    (hmode : s.ppu.mode = .vBlank) (hwlc : s.ppu.wlc ≤ 144) : PpuOk (endBlankLine s) := by
  have hnext : (s.lcd.ly + 1).toNat = s.lcd.ly.toNat + 1 := by bv_omega
  by_cases hlast : (s.lcd.ly + 1).toNat = linesPerFrame
  · rw [endBlankLine_of_last hlast]
    exact .of_start (by simp) (by simp) (by simp) (fun _ => by simp)
  · rw [endBlankLine_of_not_last hlast]
    have hlt : s.lcd.ly.toNat + 1 ≠ 154 := hnext ▸ hlast
    refine .of_on (ly := s.lcd.ly.toNat + 1) (dot := 0) ?_ ?_ ?_ (by omega) (by decide) ?_ ?_
    · rwa [State.lcdOn, lycCheck_lcd]
    · rw [lycCheck_lcd, ← hnext]
    · rw [lycCheck_ppu]
    · rw [lycCheck_ppu, modeAt_blank (by omega)]
      exact hmode
    · rw [lycCheck_ppu, linesDrawn_blank (by omega)]
      exact hwlc

theorem enterHBlank_ppuOk {s : State} (hon : s.lcdOn = true) (hly : s.lcd.ly.toNat < 144) (hdot : s.ppu.dot = 252)
    (hwlc : s.ppu.wlc ≤ s.lcd.ly.toNat) : PpuOk (enterHBlank s) := by
  refine .of_on (ly := s.lcd.ly.toNat) (dot := 252) ?_ ?_ ?_ (by omega) (by decide) ?_ ?_
  · rwa [State.lcdOn, enterHBlank_lcd]
  · rw [enterHBlank_lcd]
  · rw [enterHBlank_dot, hdot]
  · rw [enterHBlank_mode, modeAt_hBlank hly le_rfl]
  · rw [linesDrawn_after hly le_rfl]
    exact (enterHBlank_wlc_le s).trans (Nat.succ_le_succ hwlc)

theorem ppuDot_ppuOk {s : State} (h : PpuOk s) (hon : s.lcdOn = true) : PpuOk (ppuDot s) := by
  obtain ⟨hly, hdot, hmode, -, hwlc⟩ := h
  have hmode := hmode hon
  have hwlc' := hwlc.trans (linesDrawn_le_succ _ _)
  rcases ppuDot_cases s with ⟨hvis, h80, e⟩ | ⟨hvis, h252, e⟩ | ⟨hvis, h456, e⟩ | ⟨hblank, h456, e⟩ | ⟨h456, hquiet, e⟩
    <;> rw [e]
  · exact .of_on hon rfl h80 hly (by decide) (modeAt_pixelTransfer hvis le_rfl (by decide)).symm (h80 ▸ hwlc')
  · rw [linesDrawn_before hvis (by omega)] at hwlc
    exact enterHBlank_ppuOk hon hvis h252 hwlc
  · rw [linesDrawn_after hvis (by omega)] at hwlc
    exact endVisibleLine_ppuOk hon hvis hwlc
  · rw [linesDrawn_blank hblank] at hwlc
    exact endBlankLine_ppuOk hon hblank hly (hmode.trans (modeAt_blank hblank)) hwlc
  · exact .of_on hon rfl rfl hly (Nat.lt_of_le_of_ne hdot h456) (hmode.trans (modeAt_succ hquiet).symm) hwlc'

/-! ### Writes -/

/-- A switch of the LCD starts the line over; any other write of LCDC leaves bit 7 and the PPU (rule R558). -/
theorem lcdcWrite_ppuOk {s : State} (h : PpuOk s) (v : Byte) : PpuOk (lcdcWrite v s) := by
  unfold lcdcWrite
  split
  · rename_i hswitch
    obtain ⟨-, hv⟩ := Bool.and_eq_true_iff.mp hswitch
    refine .of_start rfl rfl rfl fun hon => ?_
    have hon : v.getLsbD 7 = true := hon
    rw [hon] at hv
    cases hv
  · split
    · exact .of_start rfl rfl rfl (fun _ => rfl)
    · rename_i hoff hon
      have hsame : v.getLsbD 7 = s.lcd.lcdc.getLsbD 7 := by
        revert hoff hon
        cases v.getLsbD 7 <;> cases s.lcd.lcdc.getLsbD 7 <;> decide
      exact h.congr hsame rfl rfl

theorem PpuOk.writeIoReg {s : State} (h : PpuOk s) (v : Byte) (r : IoReg) : PpuOk (ioRegWrite s v r) := by
  cases r
  case lcdc => exact lcdcWrite_ppuOk h v
  case dma =>
    exact oamCopy_keeps (s := { s with lcd.dma := v }) (fun _ _ _ h => h.congr rfl rfl rfl) (h.congr rfl rfl rfl)
  all_goals exact h.congr rfl rfl rfl

theorem PpuOk.write {s : State} (h : PpuOk s) (a : Word) (v : Byte) : PpuOk (memWrite s a v) := by
  rcases memWrite_cases s a v with e | e | ⟨ram, ie, e⟩ <;> rw [e]
  · unfold mbcControl
    split
    · exact h
    · exact h.congr rfl rfl rfl
  · unfold ioWrite
    split
    · exact h
    · exact h.writeIoReg v _
  · exact h.congr rfl rfl rfl

theorem PpuOk.closed : Closed PpuOk :=
  .of_devices (fun _ _ _ _ _ _ _ h => h.congr rfl rfl rfl) fun _ a v h => h.write a v

/-! ## The obligations -/

/-- Settles O15: a step keeps the three by the rule for closed properties, a Bus write by the laws of the Bus. -/
theorem noStepChangesTheCartridgeOrTheParameters : Obligations.NoStepChangesTheCartridgeOrTheParameters := by
  refine ⟨fun s t h => ?_, fun s a v => ⟨memWrite_cart s a v, memWrite_params s a v, memWrite_driver s a v⟩⟩
  obtain ⟨cart, params, driver⟩ := step_keepsLoad h
  exact ⟨cart, params, driver⟩

/-- Settles O16: every flag byte an instruction writes has a zero low nibble, and the devices do not reach F. -/
theorem everyStepKeepsTheLowNibbleOfFZero : Obligations.EveryStepKeepsTheLowNibbleOfFZero := fun _ _ =>
  FlagsOk.closed.step (fun _ _ h => h) (fun s h => h.congr (timerCycle_regs s)) (fun s _ h => h.congr (ppuDot_regs s))

/-- Settles O17: memories change by Bus writes and the OAM copy only, each inside its region. -/
theorem everyStepKeepsTheMemoriesCanonicalAndInBounds : Obligations.EveryStepKeepsTheMemoriesCanonicalAndInBounds :=
  fun _ _ => MemoryOk.closed.step (fun _ _ h => h.congr rfl rfl)
    (fun s h => h.congr (timerCycle_ram s) (timerCycle_cart s)) (fun s _ h => h.congr (ppuDot_ram s) (ppuDot_cart s))

/-- Settles O18: a dot and a write of LCDC keep the scanline invariant, and nothing else reaches LY or the PPU. -/
theorem everyStepKeepsTheScanlineInvariants : Obligations.EveryStepKeepsTheScanlineInvariants := fun _ _ =>
  PpuOk.closed.step (fun _ _ h => h.congr rfl rfl rfl)
    (fun s h => h.congr (by rw [State.lcdOn, State.lcdOn, timerCycle_lcd]) (by rw [timerCycle_lcd]) (timerCycle_ppu s))
    (fun _ hon h => ppuDot_ppuOk h hon)

/-- Settles O19: only a control write reaches the bank registers, and it masks and adjusts what it stores. -/
theorem everyStepKeepsTheBankRegistersInRange : Obligations.EveryStepKeepsTheBankRegistersInRange := fun _ _ =>
  MbcOk.closed.step (fun _ _ h => h) (fun s h => h.congr (timerCycle_cart s) (timerCycle_mbc s))
    (fun s _ h => h.congr (ppuDot_cart s) (ppuDot_mbc s))

end Sys2Proof.Machine
end

section
/-! The state family, the CPU's control: what may change IME, the run state and F. -/

namespace Sys2Proof.Machine

/-! ## What an instruction does to IME and to the run state -/

/-- `t` is what the instruction makes of `s`'s IME and run state; the system instructions and `RETI` name what they
write (`45_control.md` rule R439, `46_system.md` rules R461 to R466). -/
inductive ControlEffect (s t : State) : Instr → Prop where
  | keeps {i : Instr} (ime : t.ime = s.ime) (run : t.run = s.run) : ControlEffect s t i
  | reti (ime : t.ime = true) (run : t.run = s.run) : ControlEffect s t .reti
  | di (ime : t.ime = false) (run : t.run = s.run) : ControlEffect s t .di
  | halt (ime : t.ime = s.ime) (run : t.run = .halted) : ControlEffect s t .halt
  | stop {pad : Byte} (ime : t.ime = s.ime) (run : t.run = .stopped) : ControlEffect s t (.stop pad)
  | undefined {row : Byte × Instr} (mem : row ∈ undefinedRows) (ime : t.ime = s.ime)
      (run : t.run = .faulted row.1 (s.regs.pc - 1)) (pc : t.regs.pc = s.regs.pc - 1) : ControlEffect s t row.2

@[simp] theorem push16_ime (s : State) (v : Word) : (push16 s v).ime = s.ime := by simp [push16_eq]
@[simp] theorem push16_run (s : State) (v : Word) : (push16 s v).run = s.run := by simp [push16_eq]
@[simp] theorem push16_f (s : State) (v : Word) : (push16 s v).regs.f = s.regs.f := by simp [push16_eq]

@[simp] theorem callTo_ime (w : Word) (s : State) : (callTo w s).ime = s.ime := by simp [callTo]
@[simp] theorem callTo_run (w : Word) (s : State) : (callTo w s).run = s.run := by simp [callTo]
@[simp] theorem callTo_f (w : Word) (s : State) : (callTo w s).regs.f = s.regs.f := by simp [callTo]

@[simp] theorem modifyHl_ime (f : Byte → AluResult) (s : State) : (modifyHl f s).ime = s.ime := memWrite_ime _ _ _
@[simp] theorem modifyHl_run (f : Byte → AluResult) (s : State) : (modifyHl f s).run = s.run := memWrite_run _ _ _

@[simp] theorem dispatchIrq_ime (q : Irq) (s : State) : (dispatchIrq q s).ime = false := by simp [dispatchIrq_eq]
@[simp] theorem dispatchIrq_run (q : Irq) (s : State) : (dispatchIrq q s).run = s.run := by simp [dispatchIrq_eq]
@[simp] theorem dispatchIrq_f (q : Irq) (s : State) : (dispatchIrq q s).regs.f = s.regs.f := by simp [dispatchIrq_eq]

/-- Where an instruction ends in `finish`, its effect on the two is that of the state before the bookkeeping. -/
theorem ControlEffect.finish_keeps {i : Instr} {s t u : State} {n : Nat} (h : finish n u = .next t)
    (ime : u.ime = s.ime) (run : u.run = s.run) : ControlEffect s t i := by
  obtain rfl := (finish_next n u t).mp h
  exact .keeps ime run

theorem ControlEffect.raise {row : Byte × Instr} (mem : row ∈ undefinedRows) {s t : State}
    (h : raiseIllegal row.1 s = .next t) : ControlEffect s t row.2 := by
  obtain rfl := (raiseIllegal_next row.1 s t).mp h
  exact .undefined mem rfl rfl rfl

/-- A conditional instruction has two ways to its next state. -/
theorem next_ite {c Q : Prop} [Decidable c] {t : State} {o p : Host.Outcome State Fault Refusal}
    (h : (if c then o else p) = .next t) (ho : o = .next t → Q) (hp : p = .next t → Q) : Q := by
  split at h
  · exact ho h
  · exact hp h

theorem exec_control {i : Instr} (hi : i.wellFormed = true) {s t : State} (h : exec i s = .next t) :
    ControlEffect s t i := by
  cases i
  case prefixCb => cases hi
  case reti => obtain rfl := (finish_next _ _ _).mp h; exact .reti rfl rfl
  case di => obtain rfl := (finish_next _ _ _).mp h; exact .di rfl rfl
  case halt => obtain rfl := (finish_next _ _ _).mp h; exact .halt rfl rfl
  case stop => obtain rfl := (finish_next _ _ _).mp h; exact .stop rfl rfl
  case illegalD3 => exact .raise (row := (0xD3, .illegalD3)) (by decide) h
  case illegalDB => exact .raise (row := (0xDB, .illegalDB)) (by decide) h
  case illegalDD => exact .raise (row := (0xDD, .illegalDD)) (by decide) h
  case illegalE3 => exact .raise (row := (0xE3, .illegalE3)) (by decide) h
  case illegalE4 => exact .raise (row := (0xE4, .illegalE4)) (by decide) h
  case illegalEB => exact .raise (row := (0xEB, .illegalEB)) (by decide) h
  case illegalEC => exact .raise (row := (0xEC, .illegalEC)) (by decide) h
  case illegalED => exact .raise (row := (0xED, .illegalED)) (by decide) h
  case illegalF4 => exact .raise (row := (0xF4, .illegalF4)) (by decide) h
  case illegalFC => exact .raise (row := (0xFC, .illegalFC)) (by decide) h
  case illegalFD => exact .raise (row := (0xFD, .illegalFD)) (by decide) h
  case jpCcNn | jrCcE | retCc => exact next_ite h (.finish_keeps · rfl rfl) (.finish_keeps · rfl rfl)
  case callCcNn => exact next_ite h (.finish_keeps · (callTo_ime _ _) (callTo_run _ _)) (.finish_keeps · rfl rfl)
  case callNn | rst => exact .finish_keeps h (callTo_ime _ _) (callTo_run _ _)
  case pushRr | pushAf => exact .finish_keeps h (push16_ime _ _) (push16_run _ _)
  case incHl | decHl | rlcHl | rrcHl | rlHl | rrHl | slaHl | sraHl | swapHl | srlHl =>
    exact .finish_keeps h (modifyHl_ime _ _) (modifyHl_run _ _)
  case ldHlR | ldHlN | ldBcA | ldDeA | ldNnA | ldhCA | ldhNA | ldHlDecA | ldHlIncA | resHl | setHl =>
    exact .finish_keeps h (memWrite_ime _ _ _) (memWrite_run _ _ _)
  case ldNnSp =>
    exact .finish_keeps h ((memWrite_ime _ _ _).trans (memWrite_ime _ _ _))
      ((memWrite_run _ _ _).trans (memWrite_run _ _ _))
  all_goals exact .finish_keeps h rfl rfl

theorem ControlEffect.ime_cases {s t : State} {i : Instr} (h : ControlEffect s t i) :
    t.ime = s.ime ∨ (i = .reti ∧ t.ime = true) ∨ (i = .di ∧ t.ime = false) := by
  cases h with
  | keeps ime run => exact .inl ime
  | reti ime run => exact .inr (.inl ⟨rfl, ime⟩)
  | di ime run => exact .inr (.inr ⟨rfl, ime⟩)
  | halt ime run => exact .inl ime
  | stop ime run => exact .inl ime
  | undefined mem ime run pc => exact .inl ime

theorem promoteEi_ime (s : State) : (promoteEi s).ime = (s.ime || s.eiPending) := by
  unfold promoteEi
  split
  · rename_i h
    rw [h, Bool.or_true]
    rfl
  · rename_i h
    rw [Bool.eq_false_iff.mpr h, Bool.or_false]

@[simp] theorem pcPast_ime (i : Instr) (s : State) : (pcPast i s).ime = s.ime := rfl
@[simp] theorem pcPast_run (i : Instr) (s : State) : (pcPast i s).run = s.run := rfl

@[simp] theorem promoteEi_run (s : State) : (promoteEi s).run = s.run := by
  unfold promoteEi
  split <;> rfl

/-- IME after a CPU step: kept, or cleared by a dispatch, or what the promotion and the instruction make of it. -/
theorem cpuStep_ime_cases {s t : State} (h : cpuStep s = .next t) :
    t.ime = s.ime ∨ ((∃ q, irqToTake s = some q) ∧ t.ime = false) ∨ t.ime = (s.ime || s.eiPending) ∨
      (fetchedInstr s = .reti ∧ t.ime = true) ∨ (fetchedInstr s = .di ∧ t.ime = false) := by
  rcases cpuStep_cases h with ⟨-, rfl⟩ | ⟨-, -, rfl⟩ | ⟨-, q, hq, rfl⟩ | ⟨-, -, e⟩
  · exact .inl rfl
  · exact .inl rfl
  · exact .inr (.inl ⟨⟨q, hq⟩, dispatchIrq_ime _ _⟩)
  · have hime := (exec_control (fetchedInstr_wellFormed s) e).ime_cases
    rw [pcPast_ime, promoteEi_ime] at hime
    exact .inr (.inr hime)

/-- Settles O13: each of the five cases of IME after a CPU step allows a rise or a fall as the rules say; the devices do
not touch IME. -/
theorem onlyEiRetiDiAndDispatchChangeIme : Obligations.OnlyEiRetiDiAndDispatchChangeIme := by
  intro s t h
  obtain ⟨u, e, rfl⟩ := step_cases h
  rw [advanceDevices_ime]
  rcases cpuStep_ime_cases e with hu | ⟨hq, hu⟩ | hu | ⟨hi, hu⟩ | ⟨hi, hu⟩ <;> rw [hu]
  · exact ⟨fun h0 h1 => by simp [h0] at h1, fun h1 h0 => by simp [h1] at h0⟩
  · exact ⟨fun _ h1 => by simp at h1, fun _ _ => .inl hq⟩
  · exact ⟨fun h0 h1 => .inl (by simpa [h0] using h1), fun h1 h0 => by simp [h1] at h0⟩
  · exact ⟨fun _ _ => .inr hi, fun _ h0 => by simp at h0⟩
  · exact ⟨fun _ h1 => by simp at h1, fun _ _ => .inr hi⟩

end Sys2Proof.Machine

/-! ## The first byte of an undefined row -/

namespace Sys2Proof

/-- The first byte of an undefined row (`46_system.md` rule R466); none for any other instruction. -/
def Instr.undefinedByte? : Instr → Option Byte
  | .illegalD3 => some 0xD3
  | .illegalDB => some 0xDB
  | .illegalDD => some 0xDD
  | .illegalE3 => some 0xE3
  | .illegalE4 => some 0xE4
  | .illegalEB => some 0xEB
  | .illegalEC => some 0xEC
  | .illegalED => some 0xED
  | .illegalF4 => some 0xF4
  | .illegalFC => some 0xFC
  | .illegalFD => some 0xFD
  | _ => none

theorem undefinedByte?_of_mem {row : Byte × Instr} (h : row ∈ Machine.undefinedRows) :
    row.2.undefinedByte? = some row.1 := by
  revert h row
  decide

theorem length_of_mem_undefinedRows {row : Byte × Instr} (h : row ∈ Machine.undefinedRows) : row.2.length = 1 := by
  revert h row
  decide

/-- A byte is its three fields (`30_encoding.md` rule R202). -/
theorem toNat_eq_fields (op : Byte) :
    op.toNat = 64 * (fieldX op).toNat + 8 * (fieldY op).toNat + (fieldZ op).toNat := by
  simp only [fieldX, fieldY, fieldZ, BitVec.extractLsb'_toNat, Nat.shiftRight_eq_div_pow]
  omega

theorem fieldY_eq_fields (op : Byte) : (fieldY op).toNat = 2 * (fieldP op).toNat + (fieldQ op).toNat := by
  revert op
  decide +kernel

theorem toNat_eq_three {x : BitVec 2} (h0 : x.toNat ≠ 0) (h1 : x.toNat ≠ 1) (h2 : x.toNat ≠ 2) : x.toNat = 3 := by
  omega

theorem undefinedByte?_decodeQuadrant0 (op b1 b2 : Byte) : (decodeQuadrant0 op b1 b2).undefinedByte? = none := by
  unfold decodeQuadrant0
  split <;> split <;> rfl

theorem undefinedByte?_decodeQuadrant1 (op : Byte) : (decodeQuadrant1 op).undefinedByte? = none := by
  unfold decodeQuadrant1
  split <;> rfl

theorem undefinedByte?_decodeQuadrant2 (op : Byte) : (decodeQuadrant2 op).undefinedByte? = none := by
  unfold decodeQuadrant2
  split <;> split <;> rfl

theorem undefinedByte?_decodeCb (op2 : Byte) : (decodeCb op2).undefinedByte? = none := by
  revert op2
  decide +kernel

theorem undefinedByte?_decodeQuadrant3 {op b1 b2 v : Byte} (hx : (fieldX op).toNat = 3)
    (h : (decodeQuadrant3 op b1 b2).undefinedByte? = some v) : op = v := by
  have hop := toNat_eq_fields op
  have hy := fieldY_eq_fields op
  have byte : ∀ w : Byte, op.toNat = w.toNat → some w = some v → op = v := fun w e hv =>
    (BitVec.eq_of_toNat_eq e).trans (Option.some.inj hv)
  unfold decodeQuadrant3 at h
  split at h
  case h_4 hz =>
    split at h
    case h_2 => rw [undefinedByte?_decodeCb] at h; cases h
    case h_3 | h_4 | h_5 | h_6 => exact byte _ (by simp; omega) h
    all_goals cases h
  case h_5 hz =>
    split at h
    case h_5 => cases h
    all_goals exact byte _ (by simp; omega) h
  case h_6 hz =>
    split at h
    · rename_i hq
      rw [hq, Bool.toNat_true] at hy
      split at h
      · cases h
      · exact byte _ (by simp; omega) h
      · exact byte _ (by simp; omega) h
      · rename_i h0 h1 h2
        rw [toNat_eq_three h0 h1 h2] at hy
        exact byte _ (by simp; omega) h
    · split at h <;> cases h
  case h_8 => cases h
  case h_2 => split at h <;> split at h <;> cases h
  case h_1 | h_3 | h_7 => split at h <;> cases h

/-- Whatever bytes follow, an undefined row comes from its own first byte only (rule R215). -/
theorem undefinedByte?_decodeBytes {op b1 b2 v : Byte} (h : (decodeBytes op b1 b2).undefinedByte? = some v) :
    op = v := by
  unfold decodeBytes at h
  split at h
  · rw [undefinedByte?_decodeQuadrant0] at h; cases h
  · rw [undefinedByte?_decodeQuadrant1] at h; cases h
  · rw [undefinedByte?_decodeQuadrant2] at h; cases h
  · rename_i h0 h1 h2
    exact undefinedByte?_decodeQuadrant3 (toNat_eq_three h0 h1 h2) h

end Sys2Proof

namespace Sys2Proof.Machine

theorem memRead_pc_of_undefined {s : State} {row : Byte × Instr} (mem : row ∈ undefinedRows)
    (h : fetchedInstr s = row.2) : memRead s s.regs.pc = row.1 :=
  undefinedByte?_decodeBytes (h ▸ undefinedByte?_of_mem mem)

/-- `t` is in the run state in which an awake step of `s` ends: RUNNING, or what `HALT`, `STOP` or an undefined first
byte enters (`10_state.md` rule R62). -/
inductive RunEffect (s t : State) : Prop where
  | running (run : t.run = .running)
  | halt (instr : fetchedInstr s = .halt) (run : t.run = .halted)
  | stop (pad : Byte) (instr : fetchedInstr s = .stop pad) (run : t.run = .stopped)
  | undefined {row : Byte × Instr} (mem : row ∈ undefinedRows) (byte : memRead s s.regs.pc = row.1)
      (run : t.run = .faulted row.1 s.regs.pc) (pc : t.regs.pc = s.regs.pc)

theorem RunEffect.of_halted {s t : State} (h : RunEffect s t) (ht : t.run = .halted) : fetchedInstr s = .halt := by
  cases h with
  | halt instr _ => exact instr
  | running run | stop _ _ run | undefined _ _ run _ => cases run.symm.trans ht

theorem RunEffect.of_stopped {s t : State} (h : RunEffect s t) (ht : t.run = .stopped) :
    ∃ pad, fetchedInstr s = .stop pad := by
  cases h with
  | stop pad instr _ => exact ⟨pad, instr⟩
  | running run | halt _ run | undefined _ _ run _ => cases run.symm.trans ht

theorem RunEffect.of_faulted {s t : State} (h : RunEffect s t) {opcode : Byte} {pc : Word}
    (ht : t.run = .faulted opcode pc) :
    (∃ row ∈ undefinedRows, row.1 = memRead s s.regs.pc) ∧
      opcode = memRead s s.regs.pc ∧ pc = s.regs.pc ∧ t.regs.pc = s.regs.pc := by
  cases h with
  | undefined mem byte run hpc =>
    obtain ⟨rfl, rfl⟩ := RunState.faulted.inj (run.symm.trans ht)
    exact ⟨⟨_, mem, byte.symm⟩, byte.symm, rfl, hpc⟩
  | running run | halt _ run | stop _ _ run => cases run.symm.trans ht

theorem exec_runEffect {s u t : State} (hrun : u.run = .running)
    (hpc : u.regs.pc = s.regs.pc + BitVec.ofNat 16 (fetchedInstr s).length) (h : exec (fetchedInstr s) u = .next t) :
    RunEffect s t := by
  have hc := exec_control (fetchedInstr_wellFormed s) h
  generalize hi : fetchedInstr s = i at hc hpc
  cases hc with
  | keeps _ run | reti _ run | di _ run => exact .running (run.trans hrun)
  | halt _ run => exact .halt hi run
  | stop _ run => exact .stop _ hi run
  | undefined mem _ run pc =>
    have hback : u.regs.pc - 1 = s.regs.pc := by
      rw [hpc, length_of_mem_undefinedRows mem]
      exact BitVec.add_sub_cancel _ _
    exact .undefined mem (memRead_pc_of_undefined mem hi) (hback ▸ run) (pc.trans hback)

/-- The run state after a CPU step: STOPPED stays, HALTED waits, an awake machine dispatches or runs an instruction. -/
theorem cpuStep_run_cases {s t : State} (h : cpuStep s = .next t) :
    (s.run = .stopped ∧ t.run = .stopped) ∨ (s.run = .halted ∧ t.run = .halted) ∨ (Awake s ∧ RunEffect s t) := by
  rcases cpuStep_cases h with ⟨hr, rfl⟩ | ⟨hr, -, rfl⟩ | ⟨hw, q, -, rfl⟩ | ⟨hw, -, e⟩
  · exact .inl ⟨hr, hr⟩
  · exact .inr (.inl ⟨hr, hr⟩)
  · exact .inr (.inr ⟨hw, .running (dispatchIrq_run _ _)⟩)
  · exact .inr (.inr ⟨hw, exec_runEffect (by simp) (by simp [pcPast]) e⟩)

theorem Awake.run_ne_faulted {s : State} (h : Awake s) (opcode : Byte) (pc : Word) : s.run ≠ .faulted opcode pc := by
  rcases h with hr | ⟨hr, -⟩ <;> simp [hr]

/-- A halted machine is awake only where an enable meets a request (`60_exceptions.md` rule R506). -/
theorem Awake.enabled_request {s : State} (h : Awake s) (hr : s.run = .halted) :
    ∃ j < 5, (s.ie.getLsbD j && s.ifReg.getLsbD j) = true := by
  rcases h with hrun | ⟨-, hp⟩
  · simp [hr] at hrun
  · by_contra hnone
    push Not at hnone
    exact hp (s.pending_eq_zero_iff.mpr fun j hj => Bool.eq_false_iff.mpr (hnone j hj))

/-- Settles O14, from the cases of the run state after a CPU step; the devices change neither the run state nor PC. -/
theorem theRunStateChangesOnlyAsItsRulesSay : Obligations.TheRunStateChangesOnlyAsItsRulesSay := by
  intro s t h
  obtain ⟨u, e, rfl⟩ := step_cases h
  rw [advanceDevices_run, advanceDevices_regs]
  rcases cpuStep_run_cases e with ⟨hs, hu⟩ | ⟨hs, hu⟩ | ⟨hw, hu⟩
  · simp [hs, hu]
  · simp [hs, hu]
  · exact ⟨fun hr => .inr (hu.of_halted hr), fun hr => .inr (hu.of_stopped hr), fun _ _ => hu.of_faulted,
      fun hr _ => hw.enabled_request hr, fun hr => absurd hr hw.run_ne_stopped, hw.run_ne_faulted⟩

/-! ## F -/

theorem finish_keeps_f {s t u : State} {n : Nat} (h : finish n u = .next t) (hf : u.regs.f = s.regs.f) :
    t.regs.f = s.regs.f := by
  obtain rfl := (finish_next n u t).mp h
  exact hf

theorem raiseIllegal_keeps_f {op : Byte} {s t : State} (h : raiseIllegal op s = .next t) : t.regs.f = s.regs.f := by
  obtain rfl := (raiseIllegal_next op s t).mp h
  rfl

theorem memWrite_f (s : State) (a : Word) (v : Byte) : (memWrite s a v).regs.f = s.regs.f := by rw [memWrite_regs]

theorem setR8_f (s : State) (r : Reg8) (v : Byte) : (s.setR8 r v).regs.f = s.regs.f := Regs.set_f _ _ _

theorem setR16_f (s : State) (rr : Reg16) (v : Word) : (s.setR16 rr v).regs.f = s.regs.f := Regs.set16_f _ _ _

theorem exec_keeps_f {i : Instr} {s t : State} (hi : writesFlags i = false) (h : exec i s = .next t) :
    t.regs.f = s.regs.f := by
  cases i
  case ldRR | ldRN | ldRHl | ldABc | ldADe | ldANn | ldhAC | ldhAN | resR | setR =>
    exact finish_keeps_f h (setR8_f _ _ _)
  case ldRrNn | incRr | decRr | popRr => exact finish_keeps_f h (setR16_f _ _ _)
  case ldAHlDec | ldAHlInc => exact finish_keeps_f h rfl
  case ldHlR | ldHlN | ldBcA | ldDeA | ldNnA | ldhCA | ldhNA | ldHlDecA | ldHlIncA | resHl | setHl =>
    exact finish_keeps_f h (memWrite_f _ _ _)
  case ldNnSp => exact finish_keeps_f h ((memWrite_f _ _ _).trans (memWrite_f _ _ _))
  case callNn | rst => exact finish_keeps_f h (callTo_f _ _)
  case pushRr | pushAf => exact finish_keeps_f h (push16_f _ _)
  case jpCcNn | jrCcE | retCc => exact next_ite h (finish_keeps_f · rfl) (finish_keeps_f · rfl)
  case callCcNn => exact next_ite h (finish_keeps_f · (callTo_f _ _)) (finish_keeps_f · rfl)
  case jpNn | jpHl | jrE | ret | reti | ldSpHl | nop | halt | stop | di | ei => exact finish_keeps_f h rfl
  case illegalD3 | illegalDB | illegalDD | illegalE3 | illegalE4 | illegalEB | illegalEC | illegalED | illegalF4
    | illegalFC | illegalFD => exact raiseIllegal_keeps_f h
  all_goals cases hi

/-- Settles O12: an instruction with no flags line writes registers other than F, and a dispatch only SP and PC. -/
theorem onlyFlagWritersChangeF : Obligations.OnlyFlagWritersChangeF :=
  ⟨fun _ _ _ => exec_keeps_f, dispatchIrq_f⟩

end Sys2Proof.Machine
end

section
/-! The state family, the host's calls: what the reset leaves, and what the load of a cartridge checks and installs. -/

namespace Sys2Proof.Machine

/-! ## The reset -/

theorem blankFrame_get (y : Fin 144) (x : Fin 160) : blankFrame[y][x] = 0 := by
  simp [blankFrame]

/-- The memories after reset are empty, and so in form and in bounds. -/
theorem resetState_memoryOk (p : Params) {cart : Option Cartridge} (hcart : ∀ c, cart = some c → CartridgeOk c) :
    MemoryOk (resetState p cart) := by
  have empty : ∀ n, Memory.wf [] ∧ Memory.below [] n := fun n => ⟨Memory.wf_nil, Memory.below_nil n⟩
  exact ⟨empty _, empty _, empty _, empty _, empty _, hcart⟩

theorem resetState_mbcOk (p : Params) (cart : Option Cartridge) : MbcOk (resetState p cart) := by
  intro c _
  cases hv : c.variant <;> simp [mbcInRange, resetState]

theorem resetState_invariant (p : Params) {cart : Option Cartridge} (hcart : ∀ c, cart = some c → CartridgeOk c) :
    Invariant (resetState p cart) where
  flags := show (0xB0 : Byte) &&& 0x0F = 0 by decide
  memory := resetState_memoryOk p hcart
  ppu := .of_start rfl rfl rfl (fun _ => rfl)
  mbc := resetState_mbcOk p cart

/-- Settles O20; the machine's own reset has no cartridge. -/
theorem everyInvariantHoldsAfterReset : Obligations.EveryInvariantHoldsAfterReset :=
  ⟨fun p _ hcart => resetState_invariant p hcart, resetState_invariant _ nofun⟩

/-! ## The load -/

theorem loadCartridge_of_ok {bytes : List Byte} {c : Cartridge} (h : deriveCartridge bytes = .ok c) (s : State) :
    loadCartridge bytes s = (resetState s.params (some c), none) := by
  rw [loadCartridge, h]

theorem loadCartridge_of_error {bytes : List Byte} {e : LoadError} (h : deriveCartridge bytes = .error e) (s : State) :
    loadCartridge bytes s = (s, some e) := by
  rw [loadCartridge, h]

/-- Settles O21: a successful load is the reset with the new cartridge, and every row of the table is the value that
`resetState` gives. -/
theorem resetLeavesTheTableValues : Obligations.ResetLeavesTheTableValues := by
  constructor
  · intro s bytes h
    cases hd : deriveCartridge bytes with
    | ok c => rw [loadCartridge_of_ok hd]; rfl
    | error e => simp [loadCartridge_of_error hd] at h
  · intro s t
    exact ⟨⟨rfl, rfl, rfl, rfl, rfl, rfl, rfl, rfl, rfl, rfl⟩, ⟨rfl, rfl, rfl, rfl, rfl⟩,
      ⟨rfl, rfl, rfl, rfl, rfl, rfl⟩, ⟨rfl, rfl, rfl, rfl, rfl, rfl, rfl, rfl, rfl, rfl, rfl, rfl⟩,
      ⟨rfl, rfl, rfl, rfl, fun y x => ⟨blankFrame_get y x, blankFrame_get y x⟩⟩,
      fun k => ⟨rfl, rfl, rfl, rfl, rfl⟩, ⟨rfl, rfl, rfl, rfl, rfl⟩, rfl, rfl⟩

/-! ## The header's tables (`20_memory.md` rule R155) -/

/-- The type bytes of a variant. -/
def headerTypes : Variant → List Nat
  | .noBanking => [0x00, 0x08, 0x09]
  | .mbc1 => [0x01, 0x02, 0x03]
  | .mbc2 => [0x05, 0x06]
  | .mbc3 => [0x0F, 0x10, 0x11, 0x12, 0x13]
  | .mbc5 => [0x19, 0x1A, 0x1B, 0x1C, 0x1D, 0x1E]

/-- The RAM sizes, by size code. -/
def headerRamSizes : List Nat := [0, 2048, 8192, 32768, 131072, 65536]

/-- The type byte names a variant where it stands in the variant's list, for each of the 256 bytes. -/
theorem variantOfType_eq_some_iff (t : Byte) (v : Variant) : variantOfType t = some v ↔ t.toNat ∈ headerTypes v := by
  cases v <;> revert t <;> decide +kernel

theorem ramSizeOfCode_eq (code : Byte) : ramSizeOfCode code = headerRamSizes[code.toNat]? := by
  revert code
  decide +kernel

theorem ramSizeFor_mbc2 (code : Byte) : ramSizeFor .mbc2 code = some 512 := rfl

theorem ramSizeFor_of_ne {v : Variant} (h : v ≠ .mbc2) (code : Byte) :
    ramSizeFor v code = headerRamSizes[code.toNat]? := by
  rw [← ramSizeOfCode_eq]
  cases v
  case mbc2 => exact absurd rfl h
  all_goals rfl

/-- No type byte stands in two lists. -/
theorem eq_of_mem_headerTypes {t : Byte} {v w : Variant} (hv : t.toNat ∈ headerTypes v) (hw : t.toNat ∈ headerTypes w) :
    v = w :=
  Option.some.inj (((variantOfType_eq_some_iff t v).mpr hv).symm.trans ((variantOfType_eq_some_iff t w).mpr hw))

/-- The RAM size code is used, and so checked, on every type but MBC2's. -/
theorem ramSizeFor_eq_some {t code : Byte} {v : Variant} {size : Nat} (hv : t.toNat ∈ headerTypes v)
    (h : ramSizeFor v code = some size) :
    (t.toNat ∈ headerTypes .mbc2 → size = 512) ∧
      (t.toNat ∉ headerTypes .mbc2 → headerRamSizes[code.toNat]? = some size) := by
  constructor
  · intro h2
    obtain rfl := eq_of_mem_headerTypes hv h2
    exact (Option.some.inj h).symm
  · intro h2
    have hne : v ≠ .mbc2 := fun e => h2 (e ▸ hv)
    rw [← ramSizeFor_of_ne hne, h]

theorem ramSizeFor_eq_none {t code : Byte} {v : Variant} (hv : t.toNat ∈ headerTypes v) (h : ramSizeFor v code = none) :
    t.toNat ∉ headerTypes .mbc2 ∧ 5 < code.toNat := by
  have hne : v ≠ .mbc2 := by
    rintro rfl
    cases h
  rw [ramSizeFor_of_ne hne, List.getElem?_eq_none_iff] at h
  exact ⟨fun h2 => hne (eq_of_mem_headerTypes hv h2), h⟩

/-- An unsupported header: a type byte in no list, or a size code past the table where it is looked at. -/
def HeaderUnsupported (type code : Byte) : Prop :=
  (∀ v, type.toNat ∉ headerTypes v) ∨ (type.toNat ∉ headerTypes .mbc2 ∧ 5 < code.toNat)

theorem not_headerUnsupported {type code : Byte} {v : Variant} {size : Nat} (hv : type.toNat ∈ headerTypes v)
    (h : ramSizeFor v code = some size) : ¬ HeaderUnsupported type code := by
  rintro (hnone | ⟨h2, hcode⟩)
  · exact hnone v hv
  · have hsome := (ramSizeFor_eq_some hv h).2 h2
    rw [List.getElem?_eq_none_iff.mpr hcode] at hsome
    cases hsome

/-- Everything the checks of a load can give. -/
theorem deriveCartridge_cases (bytes : List Byte) :
    (bytes.length < 0x0150 ∧ deriveCartridge bytes = .error .malformedCartridge) ∨
    (0x0150 ≤ bytes.length ∧ HeaderUnsupported (bytes.getD 0x0147 0) (bytes.getD 0x0149 0) ∧
      deriveCartridge bytes = .error .unsupportedCartridgeType) ∨
    (0x0150 ≤ bytes.length ∧ ∃ v size, (bytes.getD 0x0147 0).toNat ∈ headerTypes v ∧
      ramSizeFor v (bytes.getD 0x0149 0) = some size ∧ deriveCartridge bytes = .ok (cartridgeOf bytes v size)) := by
  by_cases hlen : bytes.length < headerEnd
  · exact .inl ⟨hlen, if_pos hlen⟩
  · have hle : 0x0150 ≤ bytes.length := Nat.not_lt.mp hlen
    rw [deriveCartridge, if_neg hlen]
    cases hv : variantOfType (bytes.getD 0x0147 0) with
    | none =>
      refine .inr (.inl ⟨hle, .inl fun v hmem => ?_, rfl⟩)
      rw [(variantOfType_eq_some_iff _ v).mpr hmem] at hv
      cases hv
    | some v =>
      have hmem := (variantOfType_eq_some_iff _ v).mp hv
      cases hs : ramSizeFor v (bytes.getD 0x0149 0) with
      | none => exact .inr (.inl ⟨hle, .inr (ramSizeFor_eq_none hmem hs), by simp only [hs]⟩)
      | some size => exact .inr (.inr ⟨hle, v, size, hmem, hs, by simp only [hs]⟩)

/-! ## The cartridge that a load makes -/

theorem cartridgeOf_ok {bytes : List Byte} (hlen : 0x0150 ≤ bytes.length) {v : Variant} {code : Byte} {size : Nat}
    (h : ramSizeFor v code = some size) : CartridgeOk (cartridgeOf bytes v size) where
  image := Memory.wf_ofBytes 0 bytes
  inImage c hc := (Memory.ofBytes_index hc).2.trans_eq (Nat.zero_add _)
  header := hlen
  romBanks := rfl
  ramBanks := rfl
  mbc2Ram hv := by
    obtain rfl : v = .mbc2 := hv
    exact (Option.some.inj h).symm

theorem cartridgeOf_read (bytes : List Byte) (v : Variant) (size k : Nat) :
    Memory.read (cartridgeOf bytes v size).image.bytes k = bytes.getD k 0 := by
  have h := Memory.read_ofBytes 0 k bytes
  rwa [Nat.zero_add] at h

/-- The count of banks is the length in banks, rounded up (`10_state.md` rule R96). -/
theorem romBanksFor_bounds (n : Nat) : n ≤ romBanksFor n * 16384 ∧ romBanksFor n * 16384 < n + 16384 := by
  simp only [romBanksFor, romBankSize]
  omega

/-- Settles O22, by the cases of the checks at a load. -/
theorem loadingACartridgeInstallsItOrChangesNothing : Obligations.LoadingACartridgeInstallsItOrChangesNothing := by
  intro bytes s r type code types ramSizes
  have htypes : types = headerTypes := by
    funext v
    cases v <;> rfl
  rw [htypes]
  rcases deriveCartridge_cases bytes with ⟨hlen, hd⟩ | ⟨hlen, hbad, hd⟩ | ⟨hlen, v, size, hv, hs, hd⟩
  · have hr : r = (s, some .malformedCartridge) := loadCartridge_of_error hd s
    rw [hr]
    exact ⟨iff_of_true rfl hlen, iff_of_false nofun fun h => absurd h.1 (by omega), fun _ _ => rfl, nofun⟩
  · have hr : r = (s, some .unsupportedCartridgeType) := loadCartridge_of_error hd s
    rw [hr]
    exact ⟨iff_of_false nofun (by omega), iff_of_true rfl ⟨hlen, hbad⟩, fun _ _ => rfl, nofun⟩
  · have hr : r = (resetState s.params (some (cartridgeOf bytes v size)), none) := loadCartridge_of_ok hd s
    rw [hr]
    refine ⟨iff_of_false nofun (by omega), iff_of_false nofun fun h => not_headerUnsupported hv hs h.2, nofun,
      fun _ => ?_⟩
    obtain ⟨hmbc2, hother⟩ := ramSizeFor_eq_some hv hs
    exact ⟨_, rfl, cartridgeOf_ok hlen hs, rfl, cartridgeOf_read bytes v size, hv, hmbc2, hother, rfl,
      romBanksFor_bounds bytes.length⟩

end Sys2Proof.Machine
end

section
/-! The memory family, the Bus: where each address goes, what each region's read is, and the I/O registers. -/

namespace Sys2Proof.Machine

/-! ## The address decoder, range by range (`20_memory.md` rules R124, R130) -/

theorem region_eq_rom {a : Word} (hi : a.toNat ≤ 0x7FFF) : region a = .rom := if_pos hi

theorem region_eq_vram {a : Word} (lo : 0x8000 ≤ a.toNat) (hi : a.toNat ≤ 0x9FFF) :
    region a = .vram (a.toNat - 0x8000) := by
  simp only [region]
  rw [if_neg (by omega), if_pos hi]

theorem region_eq_cram {a : Word} (lo : 0xA000 ≤ a.toNat) (hi : a.toNat ≤ 0xBFFF) : region a = .cram := by
  simp only [region]
  rw [if_neg (by omega), if_neg (by omega), if_pos hi]

theorem region_eq_wram {a : Word} (lo : 0xC000 ≤ a.toNat) (hi : a.toNat ≤ 0xDFFF) :
    region a = .wram (a.toNat - 0xC000) := by
  simp only [region]
  rw [if_neg (by omega), if_neg (by omega), if_neg (by omega), if_pos hi]

theorem region_eq_echo {a : Word} (lo : 0xE000 ≤ a.toNat) (hi : a.toNat ≤ 0xFDFF) :
    region a = .wram (a.toNat - 0xE000) := by
  simp only [region]
  rw [if_neg (by omega), if_neg (by omega), if_neg (by omega), if_neg (by omega), if_pos hi]

theorem region_eq_oam {a : Word} (lo : 0xFE00 ≤ a.toNat) (hi : a.toNat ≤ 0xFE9F) :
    region a = .oam (a.toNat - 0xFE00) := by
  simp only [region]
  rw [if_neg (by omega), if_neg (by omega), if_neg (by omega), if_neg (by omega), if_neg (by omega), if_pos hi]

theorem region_eq_unmapped {a : Word} (lo : 0xFEA0 ≤ a.toNat) (hi : a.toNat ≤ 0xFEFF) : region a = .unmapped := by
  simp only [region]
  rw [if_neg (by omega), if_neg (by omega), if_neg (by omega), if_neg (by omega), if_neg (by omega),
    if_neg (by omega), if_pos hi]

theorem region_eq_io {a : Word} (lo : 0xFF00 ≤ a.toNat) (hi : a.toNat ≤ 0xFF7F) : region a = .io := by
  simp only [region]
  rw [if_neg (by omega), if_neg (by omega), if_neg (by omega), if_neg (by omega), if_neg (by omega),
    if_neg (by omega), if_neg (by omega), if_pos hi]

theorem region_eq_hram {a : Word} (lo : 0xFF80 ≤ a.toNat) (hi : a.toNat ≤ 0xFFFE) :
    region a = .hram (a.toNat - 0xFF80) := by
  simp only [region]
  rw [if_neg (by omega), if_neg (by omega), if_neg (by omega), if_neg (by omega), if_neg (by omega),
    if_neg (by omega), if_neg (by omega), if_neg (by omega), if_pos hi]

theorem region_eq_ie {a : Word} (h : a.toNat = 0xFFFF) : region a = .ie := by
  obtain rfl : a = 0xFFFF := BitVec.eq_of_toNat_eq h
  rfl

/-- The decoder's one way into OAM. -/
theorem toNat_of_region_oam {a : Word} {k : Nat} (h : region a = .oam k) : a.toNat = 0xFE00 + k := by
  simp only [region] at h
  split_ifs at h
  simp only [Region.oam.injEq] at h
  omega

/-! ## What each region's read is, with the locks given (rules R130, R132) -/

section
variable {a : Word} {k : Nat} (vLocked oLocked : Bool) (s : State)

theorem readWith_of_rom (h : region a = .rom) : readWith vLocked oLocked s a = romRead s a.toNat := by
  rw [readWith, h]
theorem readWith_of_vram (h : region a = .vram k) :
    readWith vLocked oLocked s a = if vLocked then sentinel else Memory.read s.ram.vram k := by rw [readWith, h]
theorem readWith_of_cram (h : region a = .cram) : readWith vLocked oLocked s a = cramRead s a.toNat := by
  rw [readWith, h]
theorem readWith_of_wram (h : region a = .wram k) : readWith vLocked oLocked s a = Memory.read s.ram.wram k := by
  rw [readWith, h]
theorem readWith_of_oam (h : region a = .oam k) :
    readWith vLocked oLocked s a = if oLocked then sentinel else Memory.read s.ram.oam k := by rw [readWith, h]
theorem readWith_of_unmapped (h : region a = .unmapped) : readWith vLocked oLocked s a = sentinel := by
  rw [readWith, h]
theorem readWith_of_io (h : region a = .io) : readWith vLocked oLocked s a = ioRead s a := by rw [readWith, h]
theorem readWith_of_hram (h : region a = .hram k) : readWith vLocked oLocked s a = Memory.read s.ram.hram k := by
  rw [readWith, h]
theorem readWith_of_ie (h : region a = .ie) : readWith vLocked oLocked s a = s.ie := by rw [readWith, h]

end

/-! ## The locks (rule R133) -/

theorem vramLocked_iff (s : State) :
    vramLocked s = true ↔ s.lcd.lcdc.getLsbD 7 = true ∧ s.ppu.mode = .pixelTransfer := by
  simp [vramLocked, State.lcdOn]

theorem oamLocked_iff (s : State) :
    oamLocked s = true ↔ s.lcd.lcdc.getLsbD 7 = true ∧ (s.ppu.mode = .oamScan ∨ s.ppu.mode = .pixelTransfer) := by
  simp [oamLocked, State.lcdOn]

/-- VRAM under its lock, and without it. -/
theorem vram_access {a : Word} {k : Nat} (h : region a = .vram k) (s : State) (v : Byte) :
    rawRead s a = Memory.read s.ram.vram k ∧
    (vramLocked s = true → memRead s a = 0xFF ∧ memWrite s a v = s) ∧
    (¬ vramLocked s = true → memRead s a = rawRead s a ∧
      memWrite s a v = { s with ram.vram := Memory.write s.ram.vram k v }) := by
  rw [memRead, rawRead, readWith_of_vram _ _ s h, readWith_of_vram _ _ s h, memWrite_of_vram h]
  exact ⟨rfl, fun hl => ⟨if_pos hl, if_pos hl⟩, fun hl => ⟨if_neg hl, if_neg hl⟩⟩

/-- OAM under its lock, and without it. -/
theorem oam_access {a : Word} {k : Nat} (h : region a = .oam k) (s : State) (v : Byte) :
    rawRead s a = Memory.read s.ram.oam k ∧
    (oamLocked s = true → memRead s a = 0xFF ∧ memWrite s a v = s) ∧
    (¬ oamLocked s = true → memRead s a = rawRead s a ∧
      memWrite s a v = { s with ram.oam := Memory.write s.ram.oam k v }) := by
  rw [memRead, rawRead, readWith_of_oam _ _ s h, readWith_of_oam _ _ s h, memWrite_of_oam h]
  exact ⟨rfl, fun hl => ⟨if_pos hl, if_pos hl⟩, fun hl => ⟨if_neg hl, if_neg hl⟩⟩

/-- Settles O46, range by range. -/
theorem theAddressDecoderRoutesEveryAccess : Obligations.TheAddressDecoderRoutesEveryAccess := by
  intro s a v n on vLock oLock
  refine ⟨fun hi => ?rom, fun lo hi => ?vram, fun lo hi => ?cram, fun lo hi => ?wram, fun lo hi => ?echo,
    fun lo hi => ?oam, fun lo hi => ?unmapped, fun lo hi => ?io, fun lo hi => ?hram, fun h => ?ie⟩
  case rom =>
    have h := region_eq_rom hi
    exact ⟨readWith_of_rom _ _ s h, readWith_of_rom _ _ s h, memWrite_of_rom h s v⟩
  case vram =>
    obtain ⟨hraw, hlocked, hopen⟩ := vram_access (region_eq_vram lo hi) s v
    exact ⟨hraw, fun hl => hlocked ((vramLocked_iff s).mpr hl), fun hl => hopen (hl ∘ (vramLocked_iff s).mp)⟩
  case cram =>
    have h := region_eq_cram lo hi
    exact ⟨readWith_of_cram _ _ s h, readWith_of_cram _ _ s h, memWrite_of_cram h s v⟩
  case wram =>
    have h := region_eq_wram lo hi
    have hr := fun vl ol => readWith_of_wram vl ol s h
    exact ⟨hr _ _, (hr _ _).trans (hr _ _).symm, memWrite_of_wram h s v⟩
  case echo =>
    have h := region_eq_echo lo hi
    have hr := fun vl ol => readWith_of_wram vl ol s h
    exact ⟨hr _ _, (hr _ _).trans (hr _ _).symm, memWrite_of_wram h s v⟩
  case oam =>
    obtain ⟨hraw, hlocked, hopen⟩ := oam_access (region_eq_oam lo hi) s v
    exact ⟨hraw, fun hl => hlocked ((oamLocked_iff s).mpr hl), fun hl => hopen (hl ∘ (oamLocked_iff s).mp)⟩
  case unmapped =>
    have h := region_eq_unmapped lo hi
    exact ⟨readWith_of_unmapped _ _ s h, readWith_of_unmapped _ _ s h, memWrite_of_unmapped h s v⟩
  case io =>
    have h := region_eq_io lo hi
    exact ⟨readWith_of_io _ _ s h, readWith_of_io _ _ s h, memWrite_of_io h s v⟩
  case hram =>
    have h := region_eq_hram lo hi
    have hr := fun vl ol => readWith_of_hram vl ol s h
    exact ⟨hr _ _, (hr _ _).trans (hr _ _).symm, memWrite_of_hram h s v⟩
  case ie =>
    have h := region_eq_ie h
    exact ⟨readWith_of_ie _ _ s h, readWith_of_ie _ _ s h, memWrite_of_ie h s v⟩

/-! ## The I/O registers (rules R134, R135) -/

/-- Where a register stands. -/
def IoReg.address : IoReg → Word
  | .div => 0xFF04 | .tima => 0xFF05 | .tma => 0xFF06 | .tac => 0xFF07 | .ifReg => 0xFF0F | .lcdc => 0xFF40
  | .stat => 0xFF41 | .scy => 0xFF42 | .scx => 0xFF43 | .ly => 0xFF44 | .lyc => 0xFF45 | .dma => 0xFF46
  | .bgp => 0xFF47 | .obp0 => 0xFF48 | .obp1 => 0xFF49 | .wy => 0xFF4A | .wx => 0xFF4B

theorem ioReg?_eq_some_iff {a : Word} {r : IoReg} : ioReg? a = some r ↔ a = r.address := by
  constructor
  · intro h
    obtain ⟨pre, post, htable, -⟩ := List.lookup_eq_some_iff.mp h
    have hmem : (a.toNat, r) ∈ ioTable := by rw [htable]; simp
    have haddr : ∀ p ∈ ioTable, p.1 = p.2.address.toNat := by decide
    exact BitVec.eq_of_toNat_eq (haddr _ hmem)
  · rintro rfl
    cases r <;> rfl

theorem ioReg?_eq_none_iff {a : Word} : ioReg? a = none ↔ a.toNat ∉ ioTable.map Prod.fst := by
  simp only [ioReg?, List.lookup_eq_none_iff, List.mem_map, bne_iff_ne, not_exists, not_and]
  exact forall₂_congr fun p _ => ne_comm

theorem toNat_append_eq_add {m n : Nat} (x : BitVec m) (y : BitVec n) : (x ++ y).toNat = x.toNat * 2 ^ n + y.toNat := by
  rw [BitVec.toNat_append, ← Nat.shiftLeft_add_eq_or_of_lt y.isLt, Nat.shiftLeft_eq]

/-- STAT as a sum of its fields (rules R81, R134). -/
theorem statRead_toNat (s : State) :
    (statRead s).toNat = 0x80 + 8 * s.lcd.stat.toNat + (if s.lcd.ly = s.lcd.lyc then 4 else 0)
      + (if s.lcd.lcdc.getLsbD 7 then s.ppu.mode.num.toNat else 0) := by
  have hmode : (if s.lcdOn then s.ppu.mode.num else 0#2).toNat =
      if s.lcd.lcdc.getLsbD 7 then s.ppu.mode.num.toNat else 0 := apply_ite BitVec.toNat _ _ _
  have hlyc : (BitVec.ofBool (s.lcd.ly == s.lcd.lyc)).toNat * 4 = if s.lcd.ly = s.lcd.lyc then 4 else 0 := by
    rw [BitVec.toNat_ofBool]
    by_cases h : s.lcd.ly = s.lcd.lyc <;> simp [h]
  rw [statRead, toNat_append_eq_add, toNat_append_eq_add, toNat_append_eq_add, hmode, ← hlyc, BitVec.toNat_ofNat]
  omega

/-- Settles O47: the tables, register by register, and no register elsewhere. -/
theorem ioRegistersReadAndWriteAsTheirTable : Obligations.IoRegistersReadAndWriteAsTheirTable := by
  refine ⟨?reads, ?writes, ?elsewhere⟩
  case reads =>
    intro s modeNumber
    have hmode : ∀ m : PpuMode, m.num.toNat = modeNumber m := by rintro ⟨⟩ <;> rfl
    have hstat := statRead_toNat s
    rw [hmode] at hstat
    exact ⟨rfl, rfl, rfl, toNat_append_eq_add _ _, toNat_append_eq_add _ _, rfl, hstat, rfl, rfl, rfl, rfl, rfl, rfl,
      rfl, rfl, rfl, rfl⟩
  case writes =>
    intro s v
    have hstat : v.extractLsb' 3 4 = BitVec.ofNat 4 (v.toNat / 8) :=
      congrArg (BitVec.ofNat 4) (Nat.shiftRight_eq_div_pow v.toNat 3)
    refine ⟨rfl, rfl, rfl, rfl, rfl, ?_, rfl, rfl, rfl, rfl, rfl, rfl, rfl, rfl, rfl⟩
    rw [← hstat]
    rfl
  case elsewhere =>
    intro s a v h
    have hnone : ioReg? a = none := ioReg?_eq_none_iff.mpr h
    rw [ioRead, ioWrite, hnone]
    exact ⟨rfl, rfl⟩

/-! ## The switch of the LCD (`60_exceptions.md` rule R558) -/

theorem lcdcWrite_of_same {s : State} {v : Byte} (h : s.lcd.lcdc.getLsbD 7 = v.getLsbD 7) :
    lcdcWrite v s = { s with lcd.lcdc := v } := by
  rw [lcdcWrite, h]
  cases v.getLsbD 7 <;> rfl

theorem lcdcWrite_of_off {s : State} {v : Byte} (hold : s.lcd.lcdc.getLsbD 7 = true) (hnew : v.getLsbD 7 = false) :
    lcdcWrite v s = { s with lcd.lcdc := v, lcd.ly := 0, ppu.dot := 0, ppu.mode := .hBlank, ppu.wlc := 0 } := by
  rw [lcdcWrite, hold, hnew]
  rfl

theorem lcdcWrite_of_on {s : State} {v : Byte} (hold : s.lcd.lcdc.getLsbD 7 = false) (hnew : v.getLsbD 7 = true) :
    lcdcWrite v s = { s with lcd.lcdc := v, lcd.ly := 0, ppu.dot := 0, ppu.mode := .oamScan, ppu.wlc := 0 } := by
  rw [lcdcWrite, hold, hnew]
  rfl

/-- Settles O48: the three cases of the old and the new bit 7, and what a clear bit 7 shuts off. -/
theorem switchingTheLcdRestartsTheScanlineMachine : Obligations.SwitchingTheLcdRestartsTheScanlineMachine := by
  refine ⟨fun s v => ?_, fun s c hoff => ?_⟩
  · exact ⟨lcdcWrite_of_same, lcdcWrite_of_off, lcdcWrite_of_on⟩
  · have hlcd : s.lcdOn = false := hoff
    have hstat : (ioRead s 0xFF41).toNat = _ := statRead_toNat s
    refine ⟨by rw [ppuAdvance, hlcd]; rfl, by rw [vramLocked, hlcd]; rfl, by rw [oamLocked, hlcd]; rfl, ?_⟩
    rw [hstat, hoff, if_neg Bool.false_ne_true]
    split <;> omega

end Sys2Proof.Machine
end

section
/-! The memory family, the bank controller: what a control write sets, which bank each window shows, and where cartridge
RAM answers. -/

namespace Sys2Proof.Machine

/-! ## The fields of a control write (`20_memory.md` rules R161, R164, R167, R170) -/

/-- A bank field of `k` values, after the zero-to-one adjustment. -/
def adjustedBank (v : Byte) (k : Nat) : Nat := if v.toNat % k = 0 then 1 else v.toNat % k

/-- A mask of the `n` low bits leaves the value modulo `2 ^ n`. -/
theorem and_mask_toNat {mask : Byte} {n : Nat} (hmask : mask.toNat = 2 ^ n - 1) (v : Byte) :
    (v &&& mask).toNat = v.toNat % 2 ^ n := by
  rw [BitVec.toNat_and, hmask, Nat.and_two_pow_sub_one_eq_mod]

/-- The adjustment of a field of `k` values that a mask of low bits cuts out. -/
theorem zeroToOne_and {mask : Byte} {n k : Nat} (hmask : mask.toNat = 2 ^ n - 1) (hk : k = 2 ^ n) (v : Byte) :
    zeroToOne (v &&& mask) = BitVec.ofNat 8 (adjustedBank v k) := by
  have hfield : (v &&& mask).toNat = v.toNat % k := hk ▸ and_mask_toNat hmask v
  have hzero : v &&& mask = 0 ↔ v.toNat % k = 0 := by
    rw [← hfield]
    exact BitVec.toNat_inj.symm
  rw [zeroToOne, adjustedBank]
  by_cases h : v &&& mask = 0
  · rw [if_pos h, if_pos (hzero.mp h)]
    rfl
  · rw [if_neg h, if_neg (mt hzero.mpr h), ← hfield, BitVec.ofNat_toNat, BitVec.setWidth_eq]

theorem adjustedBank_lt {k : Nat} (hk : 1 < k) (v : Byte) : adjustedBank v k < k := by
  have := Nat.mod_lt v.toNat (Nat.lt_of_succ_lt hk)
  unfold adjustedBank
  split <;> omega

theorem ofNat_adjustedBank_toNat (v : Byte) (k : Nat) :
    (BitVec.ofNat 8 (adjustedBank v k)).toNat = adjustedBank v k := by
  have := Nat.mod_le v.toNat k
  have : adjustedBank v k < 256 := by
    unfold adjustedBank
    split <;> omega
  exact Nat.mod_eq_of_lt this

theorem enablesRam_eq (v : Byte) : enablesRam v = decide (v.toNat % 16 = 10) := by
  have hlow : (v &&& 0x0F).toNat = v.toNat % 16 := and_mask_toNat (n := 4) rfl v
  rw [enablesRam, Bool.eq_iff_iff, beq_iff_eq, decide_eq_true_iff, ← BitVec.toNat_inj, hlow]
  rfl

theorem and_3_extract (v : Byte) : (v &&& 0x03).extractLsb' 0 4 = BitVec.ofNat 4 (v.toNat % 4) :=
  congrArg (BitVec.ofNat 4) (and_mask_toNat (n := 2) rfl v)

theorem and_15_extract (v : Byte) : (v &&& 0x0F).extractLsb' 0 4 = BitVec.ofNat 4 v.toNat := by
  have hlow : (v &&& 0x0F).extractLsb' 0 4 = BitVec.ofNat 4 (v.toNat % 16) :=
    congrArg (BitVec.ofNat 4) (and_mask_toNat (n := 4) rfl v)
  rw [hlow]
  exact BitVec.eq_of_toNat_eq (Nat.mod_mod _ _)

theorem getLsbD_zero_eq (v : Byte) : v.getLsbD 0 = decide (v.toNat % 2 = 1) := Nat.testBit_zero v.toNat

/-! ## The control write of each variant -/

theorem mbc1Control_eq (m : Mbc) (n : Nat) (v : Byte) :
    mbc1Control m n v =
      if n ≤ 0x1FFF then { m with ramEn := decide (v.toNat % 16 = 10) }
      else if n ≤ 0x3FFF then { m with romLo := BitVec.ofNat 8 (adjustedBank v 32) }
      else if n ≤ 0x5FFF then { m with bank2 := BitVec.ofNat 4 (v.toNat % 4) }
      else { m with bmode := decide (v.toNat % 2 = 1) } := by
  rw [mbc1Control, enablesRam_eq, zeroToOne_and (n := 5) (k := 32) rfl rfl, and_3_extract, getLsbD_zero_eq]

theorem mbc2Control_eq (m : Mbc) (n : Nat) (v : Byte) :
    mbc2Control m n v =
      if 0x4000 ≤ n then m
      else if n / 256 % 2 = 1 then { m with romLo := BitVec.ofNat 8 (adjustedBank v 16) }
      else { m with ramEn := decide (v.toNat % 16 = 10) } := by
  rw [mbc2Control, enablesRam_eq, zeroToOne_and (n := 4) (k := 16) rfl rfl, Nat.testBit_eq_decide_div_mod_eq]
  by_cases h : 0x4000 ≤ n
  · rw [if_pos h, if_neg (by omega)]
  · rw [if_neg h, if_pos (by omega)]
    simp only [decide_eq_true_eq, Nat.reducePow]

theorem mbc3Control_eq (m : Mbc) (n : Nat) (v : Byte) :
    mbc3Control m n v =
      if n ≤ 0x1FFF then { m with ramEn := decide (v.toNat % 16 = 10) }
      else if n ≤ 0x3FFF then { m with romLo := BitVec.ofNat 8 (adjustedBank v 128) }
      else if n ≤ 0x5FFF then { m with bank2 := BitVec.ofNat 4 v.toNat }
      else m := by
  rw [mbc3Control, enablesRam_eq, zeroToOne_and (n := 7) (k := 128) rfl rfl, and_15_extract]

theorem mbc5Control_eq (m : Mbc) (n : Nat) (v : Byte) :
    mbc5Control m n v =
      if n ≤ 0x1FFF then { m with ramEn := decide (v.toNat % 16 = 10) }
      else if n ≤ 0x2FFF then { m with romLo := v }
      else if n ≤ 0x3FFF then { m with romHi := BitVec.ofNat 1 v.toNat }
      else if n ≤ 0x5FFF then { m with bank2 := BitVec.ofNat 4 v.toNat }
      else m := by
  rw [mbc5Control, enablesRam_eq, and_15_extract]
  rfl

theorem memWrite_control {s : State} {c : Cartridge} (hc : s.cart = some c) {w : Word} (hw : w.toNat ≤ 0x7FFF)
    (v : Byte) : memWrite s w v = { s with mbc := controlMbc c.variant s.mbc w.toNat v } := by
  rw [memWrite_of_rom (region_eq_rom hw), mbcControl, hc]

/-! ## The two ROM windows (rules R156, R173) -/

/-- The bank of the low window, before it is wrapped. -/
def lowBank (v : Variant) (m : Mbc) : Nat := if v = .mbc1 ∧ m.bmode = true then m.bank2.toNat * 32 else 0

/-- The bank of the high window, before it is wrapped. -/
def highBank (v : Variant) (m : Mbc) : Nat :=
  match v with
  | .noBanking => 1
  | .mbc1 => m.bank2.toNat * 32 ||| m.romLo.toNat
  | .mbc2 => m.romLo.toNat
  | .mbc3 => m.romLo.toNat
  | .mbc5 => m.romHi.toNat * 256 + m.romLo.toNat

theorem mapRom_low (v : Variant) (m : Mbc) {n : Nat} (hi : n ≤ 0x3FFF) : mapRom v m n = (lowBank v m, n) := by
  cases v
  case noBanking =>
    exact Prod.ext (Nat.div_eq_of_lt (Nat.lt_succ_of_le hi)) (Nat.mod_eq_of_lt (Nat.lt_succ_of_le hi))
  case mbc1 => cases hb : m.bmode <;> simp [mapRom, lowBank, hi, hb, Nat.shiftLeft_eq]
  all_goals exact if_pos hi

theorem mapRom_high (v : Variant) (m : Mbc) {n : Nat} (lo : 0x4000 ≤ n) (hi : n ≤ 0x7FFF) :
    mapRom v m n = (highBank v m, n - 0x4000) := by
  have hne : ¬ n ≤ 0x3FFF := by omega
  cases v
  case noBanking =>
    have hdiv : n / romBankSize = 1 := by simp only [romBankSize]; omega
    have hmod : n % romBankSize = n - 0x4000 := by simp only [romBankSize]; omega
    exact Prod.ext hdiv hmod
  case mbc1 => rw [mapRom, if_neg hne, Nat.shiftLeft_eq]; rfl
  case mbc2 | mbc3 => exact if_neg hne
  case mbc5 =>
    rw [mapRom, if_neg hne, ← Nat.shiftLeft_add_eq_or_of_lt m.romLo.isLt, Nat.shiftLeft_eq]
    rfl

theorem romRead_of_cart {s : State} {c : Cartridge} (hc : s.cart = some c) (n : Nat) :
    romRead s n = c.byteAt (romIndex c s.mbc n) := by
  rw [romRead, hc]
  rfl

section
variable {s : State} {c : Cartridge} (hc : s.cart = some c) {a : Word}
include hc

theorem memRead_lowWindow (hi : a.toNat ≤ 0x3FFF) :
    memRead s a = c.byteAt (lowBank c.variant s.mbc % c.romBanks * 16384 + a.toNat) := by
  rw [memRead, readWith_of_rom _ _ s (region_eq_rom (by omega)), romRead_of_cart hc, romIndex, mapRom_low _ _ hi]
  rfl

theorem memRead_highWindow (lo : 0x4000 ≤ a.toNat) (hi : a.toNat ≤ 0x7FFF) :
    memRead s a = c.byteAt (highBank c.variant s.mbc % c.romBanks * 16384 + (a.toNat - 0x4000)) := by
  rw [memRead, readWith_of_rom _ _ s (region_eq_rom hi), romRead_of_cart hc, romIndex, mapRom_high _ _ lo hi]
  rfl

end

/-! ## The bank after a control write -/

section
variable {m : Mbc} {n : Nat} {v : Byte}

theorem lowBank_of_ne {variant : Variant} (h : variant ≠ .mbc1) (m : Mbc) : lowBank variant m = 0 :=
  if_neg fun hm => h hm.1

theorem lowBank_mbc1 (m : Mbc) : lowBank .mbc1 m = if m.bmode = true then m.bank2.toNat * 32 else 0 := by
  simp [lowBank]

theorem bank2_toNat_of_mod (v : Byte) : (BitVec.ofNat 4 (v.toNat % 4)).toNat = v.toNat % 4 :=
  Nat.mod_eq_of_lt (by omega)

theorem lowBank_after_bank2 (lo : 0x4000 ≤ n) (hi : n ≤ 0x5FFF) :
    lowBank .mbc1 (controlMbc .mbc1 m n v) = if m.bmode = true then v.toNat % 4 * 32 else 0 := by
  rw [controlMbc, mbc1Control_eq, if_neg (by omega), if_neg (by omega), if_pos hi, lowBank_mbc1, bank2_toNat_of_mod]

theorem lowBank_after_mode (lo : 0x6000 ≤ n) :
    lowBank .mbc1 (controlMbc .mbc1 m n v) = if v.toNat % 2 = 1 then m.bank2.toNat * 32 else 0 := by
  rw [controlMbc, mbc1Control_eq, if_neg (by omega), if_neg (by omega), if_neg (by omega), lowBank_mbc1]
  simp only [decide_eq_true_eq]

theorem highBank_mbc1_after_romLo (lo : 0x2000 ≤ n) (hi : n ≤ 0x3FFF) :
    highBank .mbc1 (controlMbc .mbc1 m n v) = m.bank2.toNat * 32 + adjustedBank v 32 := by
  have hlt : adjustedBank v 32 < 2 ^ 5 := adjustedBank_lt (by decide) v
  have hsum := Nat.shiftLeft_add_eq_or_of_lt hlt m.bank2.toNat
  rw [Nat.shiftLeft_eq] at hsum
  rw [controlMbc, mbc1Control_eq, if_neg (by omega), if_pos hi, highBank, ofNat_adjustedBank_toNat]
  exact hsum.symm

theorem highBank_mbc1_after_bank2 (lo : 0x4000 ≤ n) (hi : n ≤ 0x5FFF) :
    highBank .mbc1 (controlMbc .mbc1 m n v) = v.toNat % 4 * 32 ||| m.romLo.toNat := by
  rw [controlMbc, mbc1Control_eq, if_neg (by omega), if_neg (by omega), if_pos hi, highBank, bank2_toNat_of_mod]

theorem highBank_mbc2_after_romLo (hi : n ≤ 0x3FFF) (hbit : n / 256 % 2 = 1) :
    highBank .mbc2 (controlMbc .mbc2 m n v) = adjustedBank v 16 := by
  rw [controlMbc, mbc2Control_eq, if_neg (by omega), if_pos hbit, highBank, ofNat_adjustedBank_toNat]

theorem highBank_mbc3_after_romLo (lo : 0x2000 ≤ n) (hi : n ≤ 0x3FFF) :
    highBank .mbc3 (controlMbc .mbc3 m n v) = adjustedBank v 128 := by
  rw [controlMbc, mbc3Control_eq, if_neg (by omega), if_pos hi, highBank, ofNat_adjustedBank_toNat]

theorem highBank_mbc5_after_romLo (lo : 0x2000 ≤ n) (hi : n ≤ 0x2FFF) :
    highBank .mbc5 (controlMbc .mbc5 m n v) = m.romHi.toNat * 256 + v.toNat := by
  rw [controlMbc, mbc5Control_eq, if_neg (by omega), if_pos hi, highBank]

theorem highBank_mbc5_after_romHi (lo : 0x3000 ≤ n) (hi : n ≤ 0x3FFF) :
    highBank .mbc5 (controlMbc .mbc5 m n v) = v.toNat % 2 * 256 + m.romLo.toNat := by
  rw [controlMbc, mbc5Control_eq, if_neg (by omega), if_neg (by omega), if_pos hi, highBank]
  rfl

end

/-- Settles O51: the windows and the control writes by the variant, and the one after the other. -/
theorem aBankSelectResolvesModuloTheBanksPresent : Obligations.ABankSelectResolvesModuloTheBanksPresent := by
  refine ⟨?absent, ?windows, ?control, ?select⟩
  case absent =>
    intro s a v hc ha
    have hr := region_eq_rom ha
    rw [memRead, readWith_of_rom _ _ s hr, memWrite_of_rom hr, romRead, mbcControl, hc]
    exact ⟨rfl, rfl⟩
  case windows =>
    intro s c a hc
    refine ⟨memRead_lowWindow hc, fun lo hi => ?_⟩
    exact memRead_highWindow hc lo hi
  case control =>
    intro s c w v hc hw
    dsimp only
    rw [memWrite_control hc hw]
    congr 1
    cases c.variant
    case noBanking => rfl
    case mbc1 => exact mbc1Control_eq s.mbc w.toNat v
    case mbc2 => exact mbc2Control_eq s.mbc w.toNat v
    case mbc3 => exact mbc3Control_eq s.mbc w.toNat v
    case mbc5 => exact mbc5Control_eq s.mbc w.toNat v
  case select =>
    intro s c w a v hc hw
    have hct : (memWrite s w v).cart = some c := (memWrite_cart s w v).trans hc
    have hmbc : (memWrite s w v).mbc = controlMbc c.variant s.mbc w.toNat v := by rw [memWrite_control hc hw]
    refine ⟨fun hi => ?low, fun lo hi => ?high⟩
    case low =>
      have hread := memRead_lowWindow hct hi
      rw [hmbc] at hread
      refine ⟨fun hv => ?_, fun hv nlo nhi => ?_, fun hv nlo => ?_⟩
      · rwa [lowBank_of_ne hv] at hread
      · rwa [hv, lowBank_after_bank2 nlo nhi] at hread
      · rwa [hv, lowBank_after_mode nlo] at hread
    case high =>
      have hread := memRead_highWindow hct lo hi
      rw [hmbc] at hread
      refine ⟨fun hv => ?_, fun hv nlo nhi => ?_, fun hv nlo nhi => ?_, fun hv nhi hbit => ?_, fun hv nlo nhi => ?_,
        fun hv nlo nhi => ?_, fun hv nlo nhi => ?_⟩ <;> rw [hv] at hread
      · exact hread
      · rwa [highBank_mbc1_after_romLo nlo nhi] at hread
      · rwa [highBank_mbc1_after_bank2 nlo nhi] at hread
      · rwa [highBank_mbc2_after_romLo nhi hbit] at hread
      · rwa [highBank_mbc3_after_romLo nlo nhi] at hread
      · rwa [highBank_mbc5_after_romLo nlo nhi] at hread
      · rwa [highBank_mbc5_after_romHi nlo nhi] at hread

/-! ## Cartridge RAM (rules R157, R163, R166, R169, R172) -/

/-- A half-byte as MBC2 shows it (rule R166). -/
theorem halfByte_toNat (v : Byte) : (0xF0 ||| (v &&& 0x0F)).toNat = 0xF0 + v.toNat % 16 := by
  have hlow : (v &&& 0x0F).toNat = v.toNat % 2 ^ 4 := and_mask_toNat rfl v
  have hsum := Nat.shiftLeft_add_eq_or_of_lt (Nat.mod_lt v.toNat (Nat.two_pow_pos 4)) 0xF
  rw [BitVec.toNat_or, hlow]
  exact hsum.symm

theorem cramIndex_of_no_cart {s : State} (hc : s.cart = none) (n : Nat) : cramIndex s n = none := by
  rw [cramIndex, hc]

section
variable {s : State} {c : Cartridge} (hc : s.cart = some c)
include hc

theorem cramIndex_of_no_ram (h : c.ramSize = 0) (n : Nat) : cramIndex s n = none := by
  simp [cramIndex, hc, h]

theorem cramIndex_of_inaccessible (h : ramAccessible c.variant s.mbc = false) (n : Nat) : cramIndex s n = none := by
  simp [cramIndex, hc, h]

theorem cramIndex_of_accessible (hsize : c.ramSize ≠ 0) (h : ramAccessible c.variant s.mbc = true) (n : Nat) :
    cramIndex s n = some (if c.variant = .mbc2 then n % 512
      else (mapRamBank c.variant s.mbc % c.ramBanks * 8192 + (n - 0xA000)) % c.ramSize) := by
  simp only [cramIndex, hc, hsize, h, decide_false, Bool.not_true, Bool.or_false, Bool.false_eq_true, if_false]
  cases c.variant <;> simp only [reduceCtorEq, if_true, if_false, ramBankSize]

theorem isHalfByteRam_iff : isHalfByteRam s = true ↔ c.variant = .mbc2 := by
  rw [isHalfByteRam, hc]
  exact beq_iff_eq

/-- A read of the byte that answers; MBC2's upper bits read as 1 (rule R166). -/
theorem cramRead_of_index {n k : Nat} (hk : cramIndex s n = some k) :
    (cramRead s n).toNat =
      if c.variant = .mbc2 then 0xF0 + (Memory.read s.ram.cram k).toNat % 16 else (Memory.read s.ram.cram k).toNat := by
  rw [cramRead, hk]
  by_cases hv : c.variant = .mbc2
  · simp only [if_pos hv, (isHalfByteRam_iff hc).mpr hv, if_true]
    exact halfByte_toNat _
  · simp only [if_neg hv, mt (isHalfByteRam_iff hc).mp hv, Bool.false_eq_true, if_false]

/-- A write of the byte that answers; MBC2 stores the low half (rule R166). -/
theorem cramWrite_of_index {n k : Nat} (hk : cramIndex s n = some k) (v : Byte) :
    cramWrite s n v = { s with
      ram.cram := Memory.write s.ram.cram k (if c.variant = .mbc2 then BitVec.ofNat 8 (v.toNat % 16) else v) } := by
  have hlow : v &&& 0x0F = BitVec.ofNat 8 (v.toNat % 16) := by
    apply BitVec.eq_of_toNat_eq
    rw [and_mask_toNat (n := 4) rfl v, BitVec.toNat_ofNat]
    omega
  rw [cramWrite, hk]
  simp only [isHalfByteRam_iff hc, hlow]

/-- Every variant but `noBanking` has a RAM-enable register, which its own range of control writes sets. -/
theorem ramEn_after_control (hv : c.variant ≠ .noBanking) {w : Word}
    (hw : if c.variant = .mbc2 then w.toNat ≤ 0x3FFF ∧ w.toNat / 256 % 2 = 0 else w.toNat ≤ 0x1FFF) (v : Byte) :
    (memWrite s w v).mbc.ramEn = decide (v.toNat % 16 = 10) := by
  have hrom : w.toNat ≤ 0x7FFF := by split at hw <;> omega
  rw [memWrite_control hc hrom]
  cases hvar : c.variant <;> simp only [hvar, reduceCtorEq, if_true, if_false] at hw
  case noBanking => exact absurd hvar hv
  case mbc1 => rw [controlMbc, mbc1Control_eq, if_pos hw]
  case mbc2 => rw [controlMbc, mbc2Control_eq, if_neg (by omega), if_neg (by omega)]
  case mbc3 => rw [controlMbc, mbc3Control_eq, if_pos hw]
  case mbc5 => rw [controlMbc, mbc5Control_eq, if_pos hw]

end

/-- Where nothing answers, a read gives the sentinel and a write is dropped (rule R157). -/
theorem cram_unanswered {s : State} {a : Word} (ha : region a = .cram) (h : cramIndex s a.toNat = none) (v : Byte) :
    memRead s a = 0xFF ∧ memWrite s a v = s := by
  rw [memRead, readWith_of_cram _ _ s ha, memWrite_of_cram ha, cramRead, cramWrite, h]
  exact ⟨rfl, rfl⟩

theorem ramAccessible_of_disabled {v : Variant} {m : Mbc} (hv : v ≠ .noBanking) (h : m.ramEn = false) :
    ramAccessible v m = false := by
  cases v
  case noBanking => exact absurd rfl hv
  case mbc3 => rw [ramAccessible, h, Bool.false_and]
  all_goals exact h

theorem ramAccessible_of_clock {m : Mbc} (h : m.bank2.getLsbD 3 = true) : ramAccessible .mbc3 m = false := by
  rw [ramAccessible, h, Bool.not_true, Bool.and_false]

/-- No clock register is selected by a value below 8 (rule R169). -/
theorem getLsbD_three_of_lt {b : BitVec 4} (h : b.toNat < 8) : b.getLsbD 3 = false := Nat.testBit_lt_two_pow h

theorem ramAccessible_of_enabled {v : Variant} {m : Mbc}
    (h : v = .noBanking ∨ (m.ramEn = true ∧ (v = .mbc3 → m.bank2.toNat < 8))) : ramAccessible v m = true := by
  rcases h with rfl | ⟨hen, hclock⟩
  · rfl
  · cases v
    case noBanking => rfl
    case mbc3 => rw [ramAccessible, hen, getLsbD_three_of_lt (hclock rfl)]; rfl
    all_goals exact hen

theorem mapRamBank_mbc3 {m : Mbc} (h : m.bank2.toNat < 8) : mapRamBank .mbc3 m = m.bank2.toNat := by
  rw [mapRamBank, BitVec.extractLsb'_toNat, Nat.shiftRight_zero]
  exact Nat.mod_eq_of_lt h

/-- Settles O52: where no index is given nothing answers, and where one is, the byte there does. -/
theorem cartridgeRamAnswersOnlyWhenEnabled : Obligations.CartridgeRamAnswersOnlyWhenEnabled := by
  intro s a v lo hi
  have hr := region_eq_cram lo hi
  refine ⟨fun hc => cram_unanswered hr (cramIndex_of_no_cart hc _) v, fun c hc => ?_⟩
  refine ⟨fun hsize => cram_unanswered hr (cramIndex_of_no_ram hc hsize _) v, fun hv hen => ?disabled,
    fun hv hclock => ?clock, fun hsize hacc => ?answers, fun hv w e hw => ramEn_after_control hc hv hw e⟩
  case disabled => exact cram_unanswered hr (cramIndex_of_inaccessible hc (ramAccessible_of_disabled hv hen) _) v
  case clock =>
    exact cram_unanswered hr (cramIndex_of_inaccessible hc (hv ▸ ramAccessible_of_clock hclock) _) v
  case answers =>
    intro bank k held stored
    have hbank : mapRamBank c.variant s.mbc = bank := by
      cases hvar : c.variant
      case mbc3 =>
        rw [mapRamBank_mbc3 ((hacc.resolve_left (by simp [hvar])).2 hvar)]
        simp only [bank, hvar]
      all_goals simp [bank, hvar, mapRamBank]
    have hk : cramIndex s a.toNat = some k := by
      rw [cramIndex_of_accessible hc hsize (ramAccessible_of_enabled hacc), hbank]
    refine ⟨hk, ?_, ?_⟩
    · rw [memRead, readWith_of_cram _ _ s hr, cramRead_of_index hc hk]
    · rw [memWrite_of_cram hr, cramWrite_of_index hc hk]

end Sys2Proof.Machine
end

section
/-! The memory family, reads after writes: the OAM copy, and what a write leaves every other byte reading as. -/

namespace Sys2Proof.Machine

/-! ## What a read looks at -/

/-- Whatever a read of `b` looks at is in `t` what it is in `s`. Each field defaults to the proof for a part that an
update does not touch, so that a proof of this names just the parts that it does. -/
structure SameByte (s t : State) (b : Word) : Prop where
  vramLock (k : Nat) (h : region b = .vram k) : vramLocked t = vramLocked s := by intros; rfl
  oamLock (k : Nat) (h : region b = .oam k) : oamLocked t = oamLocked s := by intros; rfl
  rom (h : region b = .rom) : romRead t b.toNat = romRead s b.toNat := by intros; rfl
  vram (k : Nat) (h : region b = .vram k) : Memory.read t.ram.vram k = Memory.read s.ram.vram k := by intros; rfl
  cram (h : region b = .cram) : cramRead t b.toNat = cramRead s b.toNat := by intros; rfl
  wram (k : Nat) (h : region b = .wram k) : Memory.read t.ram.wram k = Memory.read s.ram.wram k := by intros; rfl
  oam (k : Nat) (h : region b = .oam k) : Memory.read t.ram.oam k = Memory.read s.ram.oam k := by intros; rfl
  io (r : IoReg) (h : ioReg? b = some r) : ioRegRead t r = ioRegRead s r := by intros; rfl
  hram (k : Nat) (h : region b = .hram k) : Memory.read t.ram.hram k = Memory.read s.ram.hram k := by intros; rfl
  ie (h : region b = .ie) : t.ie = s.ie := by intros; rfl

theorem SameByte.ioRead_eq {s t : State} {b : Word} (h : SameByte s t b) : ioRead t b = ioRead s b := by
  unfold ioRead
  cases hr : ioReg? b with
  | none => rfl
  | some r => exact h.io r hr

theorem SameByte.rawRead_eq {s t : State} {b : Word} (h : SameByte s t b) : rawRead t b = rawRead s b := by
  unfold rawRead readWith
  cases hb : region b with
  | rom => exact h.rom hb
  | vram k => exact h.vram k hb
  | cram => exact h.cram hb
  | wram k => exact h.wram k hb
  | oam k => exact h.oam k hb
  | unmapped => rfl
  | io => exact h.ioRead_eq
  | hram k => exact h.hram k hb
  | ie => exact h.ie hb

/-- A locked read looks at no byte, so the locks and `RawRead` say all of the CPU's read. -/
theorem memRead_eq_locked_or_rawRead (s : State) (b : Word) :
    memRead s b = match region b with
      | .vram _ => if vramLocked s then sentinel else rawRead s b
      | .oam _ => if oamLocked s then sentinel else rawRead s b
      | _ => rawRead s b := by
  unfold memRead rawRead readWith
  cases region b <;> rfl

theorem SameByte.memRead_eq {s t : State} {b : Word} (h : SameByte s t b) : memRead t b = memRead s b := by
  rw [memRead_eq_locked_or_rawRead, memRead_eq_locked_or_rawRead, h.rawRead_eq]
  cases hb : region b with
  | vram k => rw [h.vramLock k hb]
  | oam k => rw [h.oamLock k hb]
  | _ => rfl

/-! ## The OAM copy (`20_memory.md` rule R145) -/

/-- Where the source of byte `i` lies in OAM, it is byte `i` itself. -/
theorem oamCopySource_oam {v : Byte} {i k : Nat} (hi : i < oamSize) (h : region (oamCopySource v i) = .oam k) :
    k = i := by
  have hk : k < oamSize := region_oam h
  have haddr := toNat_of_region_oam h
  have hv := v.isLt
  simp only [oamSize] at hi hk
  rw [oamCopySource, BitVec.toNat_ofNat] at haddr
  omega

/-- The copy's bytes as far as it has come: each is read where no earlier byte of the copy has been written. -/
theorem read_oamCopy_fold (v : Byte) (s : State) {n : Nat} (hn : n ≤ oamSize) (i : Nat) :
    Memory.read ((List.range n).foldl (oamCopyByte v) s).ram.oam i =
      if i < n then rawRead s (oamCopySource v i) else Memory.read s.ram.oam i := by
  induction n generalizing i with
  | zero => rfl
  | succ n ih =>
    have ih := ih (Nat.le_of_succ_le hn)
    rw [List.range_succ, List.foldl_append]
    have hsource : rawRead
        ((List.range n).foldl (oamCopyByte v) s) (oamCopySource v n) = rawRead s (oamCopySource v n) := by
      rw [oamCopy_fold]
      refine SameByte.rawRead_eq { oam := fun k hk => ?_ }
      obtain rfl := oamCopySource_oam hn hk
      exact (ih k).trans (if_neg (Nat.lt_irrefl k))
    show Memory.read (Memory.write _ n _) i = _
    rw [hsource, Memory.read_write, ih]
    by_cases hin : i = n
    · subst hin
      rw [if_pos rfl, if_pos (Nat.lt_succ_self i)]
    · rw [if_neg hin]
      by_cases hlt : i < n
      · rw [if_pos hlt, if_pos (by omega)]
      · rw [if_neg hlt, if_neg (by omega)]

/-- Settles O50, by the bytes of the whole copy. -/
theorem aWriteOfDmaCopiesAPageIntoOam : Obligations.AWriteOfDmaCopiesAPageIntoOam := by
  intro s v written t
  have ht : t = oamCopy v written := rfl
  have hread : ∀ i, Memory.read t.ram.oam i =
      if i < 160 then rawRead written (oamCopySource v i) else Memory.read s.ram.oam i :=
    read_oamCopy_fold v written (n := oamSize) le_rfl
  refine ⟨?_, fun i hi => (hread i).trans (if_pos hi), fun i hi => (hread i).trans (if_neg (by omega))⟩
  rw [ht]
  exact oamCopy_eq v written

/-! ## What a write of an I/O register leaves other bytes reading as (rules R134, R135) -/

/-- A write of register `r` may change what register `q` reads as. -/
def IoReg.touches (r q : IoReg) : Prop :=
  match r with
  | .ly => False
  | .lcdc => q = .lcdc ∨ q = .stat ∨ q = .ly
  | .lyc => q = .lyc ∨ q = .stat
  | _ => q = r

theorem mayChange_of_touches {s : State} {a b : Word} {r q : IoReg} (ha : region a = .io) (hr : ioReg? a = some r)
    (hq : ioReg? b = some q) (h : r.touches q) : MayChange s a b := by
  have hb := ioReg?_eq_some_iff.mp hq
  simp only [MayChange, ha, hr]
  cases r
  case ly => exact h
  case lcdc =>
    rcases h with rfl | rfl | rfl
    · exact .inl hb
    · exact .inr (.inl hb)
    · exact .inr (.inr (.inl hb))
  case lyc =>
    rcases h with rfl | rfl
    · exact .inl hb
    · exact .inr hb
  case dma =>
    obtain rfl : q = .dma := h
    exact .inl hb
  all_goals
    obtain rfl := h
    exact hb.trans (ioReg?_eq_some_iff.mp hr).symm

/-- Of the LCD registers a write of LCDC changes LCDC and LY, and else the PPU alone. -/
theorem lcdcWrite_lcd (v : Byte) (s : State) :
    (lcdcWrite v s).lcd = { s.lcd with lcdc := v, ly := (lcdcWrite v s).lcd.ly } := by
  unfold lcdcWrite
  split
  · rfl
  · split <;> rfl

theorem ioRegRead_ioRegWrite {r q : IoReg} (h : ¬ r.touches q) (s : State) (v : Byte) :
    ioRegRead (ioRegWrite s v r) q = ioRegRead s q := by
  cases r
  case ly => rfl
  case' lcdc => rw [ioRegWrite, lcdcWrite_eq, lcdcWrite_lcd]
  case' dma => rw [ioRegWrite, oamCopy_eq]
  all_goals cases q <;> simp [IoReg.touches] at h <;> rfl

theorem memRead_ioRegWrite {s : State} {a b : Word} {r : IoReg} (ha : region a = .io) (hr : ioReg? a = some r)
    (h : ¬ MayChange s a b) (v : Byte) : memRead (ioRegWrite s v r) b = memRead s b := by
  have hio : ∀ q, ioReg? b = some q → ioRegRead (ioRegWrite s v r) q = ioRegRead s q := fun q hq =>
    ioRegRead_ioRegWrite (fun ht => h (mayChange_of_touches ha hr hq ht)) s v
  simp only [MayChange, ha, hr] at h
  cases r
  case ly => rfl
  case lcdc =>
    simp only [not_or, not_exists] at h
    obtain ⟨-, -, -, hvram, hoam⟩ := h
    rw [ioRegWrite, lcdcWrite_eq] at hio ⊢
    exact SameByte.memRead_eq
      { io := hio, vramLock := fun k hk => absurd hk (hvram k), oamLock := fun k hk => absurd hk (hoam k) }
  case dma =>
    simp only [not_or, not_exists] at h
    obtain ⟨-, hoam⟩ := h
    rw [ioRegWrite, oamCopy_eq] at hio ⊢
    exact SameByte.memRead_eq { io := hio, oam := fun k hk => absurd hk (hoam k) }
  all_goals exact SameByte.memRead_eq { io := hio }

/-! ## What a write leaves other bytes reading as -/

theorem memRead_mbcControl {s : State} {b : Word} (hrom : region b ≠ .rom) (hcram : region b ≠ .cram) (n : Nat)
    (v : Byte) : memRead (mbcControl s n v) b = memRead s b := by
  unfold mbcControl
  split
  · rfl
  · exact SameByte.memRead_eq { rom := fun hb => absurd hb hrom, cram := fun hb => absurd hb hcram }

theorem cramRead_withCram {s : State} {n : Nat} {m : Memory}
    (h : ∀ k, cramIndex s n = some k → Memory.read m k = Memory.read s.ram.cram k) :
    cramRead { s with ram.cram := m } n = cramRead s n := by
  unfold cramRead
  rw [show cramIndex { s with ram.cram := m } n = cramIndex s n from rfl]
  cases hk : cramIndex s n with
  | none => rfl
  | some k =>
    simp only [h k hk]
    rfl

/-- A write of cartridge RAM leaves every byte of another index. -/
theorem cramRead_cramWrite_ne {s : State} {n n' : Nat} (h : cramIndex s n' ≠ cramIndex s n) (v : Byte) :
    cramRead (cramWrite s n v) n' = cramRead s n' := by
  unfold cramWrite
  split
  · rfl
  · rename_i k hk
    refine cramRead_withCram fun j hj => Memory.read_write_ne _ _ fun e => h ?_
    rw [hj, hk, e]

theorem memRead_cramWrite {s : State} {a b : Word}
    (h : region b = .cram → cramIndex s b.toNat ≠ cramIndex s a.toNat) (v : Byte) :
    memRead (cramWrite s a.toNat v) b = memRead s b := by
  have hcram := fun hb => cramRead_cramWrite_ne (h hb) v
  unfold cramWrite at hcram ⊢
  split at hcram
  · rfl
  · exact SameByte.memRead_eq { cram := hcram }

theorem memRead_memWrite_of_not_mayChange {s : State} {a b : Word} (h : ¬ MayChange s a b) (v : Byte) :
    memRead (memWrite s a v) b = memRead s b := by
  cases ha : region a with
  | rom =>
    simp only [MayChange, ha, not_or] at h
    obtain ⟨hrom, hcram⟩ := h
    rw [memWrite_of_rom ha]
    exact memRead_mbcControl hrom hcram _ v
  | vram k =>
    simp only [MayChange, ha] at h
    rw [memWrite_of_vram ha]
    split
    · rfl
    · exact SameByte.memRead_eq { vram := fun j hj => Memory.read_write_ne _ v fun e => h (e ▸ hj) }
  | cram =>
    simp only [MayChange, ha, not_and] at h
    rw [memWrite_of_cram ha]
    exact memRead_cramWrite h v
  | wram k =>
    simp only [MayChange, ha] at h
    rw [memWrite_of_wram ha]
    exact SameByte.memRead_eq { wram := fun j hj => Memory.read_write_ne _ v fun e => h (e ▸ hj) }
  | oam k =>
    simp only [MayChange, ha] at h
    rw [memWrite_of_oam ha]
    split
    · rfl
    · exact SameByte.memRead_eq { oam := fun j hj => Memory.read_write_ne _ v fun e => h (e ▸ hj) }
  | unmapped => rw [memWrite_of_unmapped ha]
  | io =>
    rw [memWrite_of_io ha, ioWrite]
    cases hr : ioReg? a with
    | none => rfl
    | some r => exact memRead_ioRegWrite ha hr h v
  | hram k =>
    simp only [MayChange, ha] at h
    rw [memWrite_of_hram ha]
    exact SameByte.memRead_eq { hram := fun j hj => Memory.read_write_ne _ v fun e => h (e ▸ hj) }
  | ie =>
    simp only [MayChange, ha] at h
    rw [memWrite_of_ie ha]
    exact SameByte.memRead_eq { ie := fun hb => absurd hb h }

/-! ## The latest write to a byte (rule R180) -/

/-- A byte that holds whatever is written to it, as the locks now stand. -/
def PlainByte (s : State) (a : Word) : Prop :=
  (∃ k, region a = .wram k) ∨ (∃ k, region a = .hram k) ∨ region a = .ie ∨
    ((∃ k, region a = .vram k) ∧ vramLocked s = false) ∨ ((∃ k, region a = .oam k) ∧ oamLocked s = false)

theorem memRead_memWrite_same {s : State} {a b : Word} (hb : region b = region a) (h : PlainByte s a) (v : Byte) :
    memRead (memWrite s a v) b = v := by
  rw [memRead]
  rcases h with ⟨k, ha⟩ | ⟨k, ha⟩ | ha | ⟨⟨k, ha⟩, hopen⟩ | ⟨⟨k, ha⟩, hopen⟩ <;> rw [ha] at hb
  · rw [memWrite_of_wram ha, readWith_of_wram _ _ _ hb]
    exact Memory.read_write_self _ k v
  · rw [memWrite_of_hram ha, readWith_of_hram _ _ _ hb]
    exact Memory.read_write_self _ k v
  · rw [memWrite_of_ie ha, readWith_of_ie _ _ _ hb]
  · have hnot : ¬ vramLocked s = true := Bool.eq_false_iff.mp hopen
    rw [memWrite_of_vram ha, if_neg hnot, readWith_of_vram _ _ _ hb]
    exact (if_neg hnot).trans (Memory.read_write_self _ k v)
  · have hnot : ¬ oamLocked s = true := Bool.eq_false_iff.mp hopen
    rw [memWrite_of_oam ha, if_neg hnot, readWith_of_oam _ _ _ hb]
    exact (if_neg hnot).trans (Memory.read_write_self _ k v)

/-- Two addresses of one index in cartridge RAM; MBC2 keeps the low half of what is written (rule R166). -/
theorem memRead_memWrite_cram {s : State} {c : Cartridge} (hc : s.cart = some c) {a b : Word} {k : Nat}
    (ha : region a = .cram) (hb : region b = .cram) (hka : cramIndex s a.toNat = some k)
    (hkb : cramIndex s b.toNat = some k) (v : Byte) :
    (memRead (memWrite s a v) b).toNat = if c.variant = .mbc2 then 0xF0 + v.toNat % 16 else v.toNat := by
  rw [memWrite_of_cram ha, cramWrite_of_index hc hka, memRead, readWith_of_cram _ _ _ hb]
  refine (cramRead_of_index (s := { s with ram.cram := Memory.write s.ram.cram k _ }) hc hkb).trans ?_
  rw [Memory.read_write_self]
  split
  · rw [BitVec.toNat_ofNat]
    omega
  · rfl

/-- Settles O49: the latest write to a byte, and the frame of a write. -/
theorem aReadReturnsTheLatestWriteToTheSameByte : Obligations.AReadReturnsTheLatestWriteToTheSameByte := by
  refine ⟨fun s a b v hb => ⟨fun h => memRead_memWrite_same hb h v, fun k c ha hka hkb hc => ?_⟩,
    fun s a b v h => memRead_memWrite_of_not_mayChange h v⟩
  exact memRead_memWrite_cram hc ha (hb.trans ha) hka hkb v

end Sys2Proof.Machine
end

section
/-! The encoding family: the decoder and the encoder are inverse to each other, and the byte 0xCB. -/

namespace Sys2Proof.Machine

/-! ## Decoding an encoding (`30_encoding.md` rules R200 to R214) -/

/-- The encoder gives as many bytes as the instruction's length says. -/
theorem length_encode (i : Instr) : (encode i).length = i.length := by
  cases i <;> rfl

/-- The reader of three bytes takes `i` from its encoding, whatever bytes follow. -/
def ReadsBack (i : Instr) : Prop :=
  ∃ op tail, encode i = op :: tail ∧
    ∀ rest, decodeBytes op ((tail ++ rest).getD 0 0) ((tail ++ rest).getD 1 0) = i

theorem ReadsBack.decode_append {i : Instr} (h : ReadsBack i) (rest : List Byte) :
    decode (encode i ++ rest) = .ok (i, rest) := by
  obtain ⟨op, tail, he, hd⟩ := h
  have hlen : i.length = tail.length + 1 := by rw [← length_encode, he]; rfl
  have hfit : i.length ≤ (tail ++ rest).length + 1 := by simp [hlen]
  rw [he, List.cons_append, decode_cons op (tail ++ rest) (by rwa [hd]), hd, hlen, Nat.add_sub_cancel, List.drop_left]

/-- After 0xCB only the second byte is looked at. -/
theorem ReadsBack.cb {i : Instr} {op2 : Byte} (he : encode i = [0xCB#8, op2]) (hd : decodeCb op2 = i) : ReadsBack i :=
  ⟨_, _, he, fun _ => hd⟩

/-- Operands of a finite type are read back value by value, an immediate word from its two halves. -/
theorem readsBack_of_wellFormed {i : Instr} (hi : i.wellFormed = true) : ReadsBack i := by
  cases i
  case prefixCb => cases hi
  case rst y => exact ⟨_, _, rfl, fun _ => decodeBytes_rst y _ _⟩
  case bitR b r => exact .cb rfl (decodeCb_bitR b r)
  case resR b r => exact .cb rfl (decodeCb_resR b r)
  case setR b r => exact .cb rfl (decodeCb_setR b r)
  case bitHl b => exact .cb rfl (decodeCb_bitHl b)
  case resHl b => exact .cb rfl (decodeCb_resHl b)
  case setHl b => exact .cb rfl (decodeCb_setHl b)
  case ldANn nn | ldNnA nn | ldNnSp nn | jpNn nn | callNn nn =>
    exact ⟨_, _, rfl, fun _ => congrArg _ (wordOf_hiByte_loByte nn)⟩
  case ldRrNn rr nn => cases rr <;> exact ⟨_, _, rfl, fun _ => congrArg _ (wordOf_hiByte_loByte nn)⟩
  case jpCcNn cc nn | callCcNn cc nn =>
    cases cc <;> exact ⟨_, _, rfl, fun _ => congrArg _ (wordOf_hiByte_loByte nn)⟩
  case jrCcE cc _ | retCc cc => cases cc <;> exact ⟨_, _, rfl, fun _ => rfl⟩
  case pushRr rr | popRr rr | addHlRr rr | incRr rr | decRr rr => cases rr <;> exact ⟨_, _, rfl, fun _ => rfl⟩
  case ldRR dst src => cases dst <;> cases src <;> exact ⟨_, _, rfl, fun _ => rfl⟩
  case ldRN r _ | ldRHl r | ldHlR r | incR r | decR r => cases r <;> exact ⟨_, _, rfl, fun _ => rfl⟩
  case addR r | adcR r | subR r | sbcR r | andR r | xorR r | orR r | cpR r =>
    cases r <;> exact ⟨_, _, rfl, fun _ => rfl⟩
  case rlcR r | rrcR r | rlR r | rrR r | slaR r | sraR r | swapR r | srlR r =>
    cases r <;> exact .cb rfl rfl
  case rlcHl | rrcHl | rlHl | rrHl | slaHl | sraHl | swapHl | srlHl => exact .cb rfl rfl
  all_goals exact ⟨_, _, rfl, fun _ => rfl⟩

/-- Settles O1: every well-formed instruction is read back from its encoding, operand by operand. -/
theorem decodingAnEncodingGivesTheInstructionBack : Obligations.DecodingAnEncodingGivesTheInstructionBack :=
  fun i hi => ⟨rfl, (length_encode i).symm, (readsBack_of_wellFormed hi).decode_append⟩

/-! ## Encoding a decoding (rules R200 to R214) -/

/-- A byte is its three fields. -/
theorem fields_append (op : Byte) : fieldX op ++ fieldY op ++ fieldZ op = op := by
  revert op
  decide +kernel

/-- What holds at each code of a field of two bits holds at all. -/
theorem forall_code2 {P : BitVec 2 → Prop} (c0 : P 0) (c1 : P 1) (c2 : P 2) (c3 : P 3) (c : BitVec 2) : P c := by
  have h : c = 0 ∨ c = 1 ∨ c = 2 ∨ c = 3 := by
    revert c
    decide
  rcases h with rfl | rfl | rfl | rfl <;> assumption

/-- What holds at each code of a field of three bits holds at all. -/
theorem forall_code3 {P : BitVec 3 → Prop} (c0 : P 0) (c1 : P 1) (c2 : P 2) (c3 : P 3) (c4 : P 4) (c5 : P 5)
    (c6 : P 6) (c7 : P 7) (c : BitVec 3) : P c := by
  rcases bitNo_cases c with rfl | rfl | rfl | rfl | rfl | rfl | rfl | rfl <;> assumption

/-- The encoding of an instruction of length `n` with the first byte `op` and, where it has one, the immediate byte `b1`
or the immediate word `b2:b1`. -/
def bytesOf (op b1 b2 : Byte) : Nat → List Byte
  | 1 => [op]
  | 2 => [op, b1]
  | _ => encodeNn op (wordOf b2 b1)

theorem bytesOf_eq_take (op b1 b2 : Byte) {n : Nat} (hpos : 1 ≤ n) (hle : n ≤ 3) :
    bytesOf op b1 b2 n = [op, b1, b2].take n := by
  have hn : n = 1 ∨ n = 2 ∨ n = 3 := by omega
  rcases hn with rfl | rfl | rfl
  · rfl
  · rfl
  · simp [bytesOf, encodeNn]

/-- What the bytes `op b1 b2` decode to encodes back to as many of them as its length says. -/
def RowEncodes (b1 b2 op : Byte) : Prop :=
  encode (decodeBytes op b1 b2) = bytesOf op b1 b2 (decodeBytes op b1 b2).length

/-- Every second byte after 0xCB encodes back (rule R208). -/
theorem encode_decodeCb : ∀ op2 : Byte, encode (decodeCb op2) = [0xCB, op2] := by decide +kernel

theorem rowEncodes_cb (b1 b2 : Byte) : RowEncodes b1 b2 0xCB := by
  show encode (decodeCb b1) = bytesOf 0xCB b1 b2 (decodeCb b1).length
  rw [encode_decodeCb, decodeCb_length]
  rfl

/-- The table of rule R211, quadrant by quadrant and column `z` by column: an immediate stands through a row's evaluation,
and only the row of 0xCB looks at the byte after it. -/
theorem rowEncodes_fields (b1 b2 : Byte) : ∀ (x : BitVec 2) (z y : BitVec 3), RowEncodes b1 b2 (x ++ y ++ z) := by
  apply forall_code2 <;> apply forall_code3
  case c3.c3 => exact forall_code3 rfl (rowEncodes_cb b1 b2) rfl rfl rfl rfl rfl rfl
  all_goals exact forall_code3 rfl rfl rfl rfl rfl rfl rfl rfl

theorem rowEncodes (b1 b2 op : Byte) : RowEncodes b1 b2 op := by
  rw [← fields_append op]
  exact rowEncodes_fields b1 b2 _ _ _

/-- What decodes is read from a first byte and the two after it, and is no longer than the bytes there are. -/
theorem decode_eq_ok {bytes rest : List Byte} {i : Instr} (h : decode bytes = .ok (i, rest)) :
    ∃ op tail, bytes = op :: tail ∧ i = decodeBytes op (tail.getD 0 0) (tail.getD 1 0) ∧
      i.length ≤ bytes.length ∧ rest = bytes.drop i.length := by
  unfold decode at h
  split at h
  · cases h
  · rename_i op tail
    simp only at h
    split at h
    · rename_i hlen
      obtain ⟨rfl, rfl⟩ := Prod.mk.inj (Except.ok.inj h)
      refine ⟨op, tail, rfl, rfl, hlen, ?_⟩
      obtain ⟨n, hn⟩ := Nat.exists_eq_add_of_le' (Instr.length_pos (decodeBytes op (tail.getD 0 0) (tail.getD 1 0)))
      rw [hn]
      rfl
    · cases h

/-- Within the list, the first byte and the two read ahead are the list's own: the padding of `getD` is not reached. -/
theorem take_read_ahead (op : Byte) (tail : List Byte) {n : Nat} (h3 : n ≤ 3) (hn : n ≤ tail.length + 1) :
    [op, tail.getD 0 0, tail.getD 1 0].take n = (op :: tail).take n := by
  rcases tail with _ | ⟨a, _ | ⟨b, tail⟩⟩ <;> simp only [List.length_nil, List.length_cons] at hn
  · have h : n = 0 ∨ n = 1 := by omega
    rcases h with rfl | rfl <;> rfl
  · have h : n = 0 ∨ n = 1 ∨ n = 2 := by omega
    rcases h with rfl | rfl | rfl <;> rfl
  · have h : n = 0 ∨ n = 1 ∨ n = 2 ∨ n = 3 := by omega
    rcases h with rfl | rfl | rfl | rfl <;> rfl

/-- Settles O2: the row of the first byte encodes back to the bytes read, and the bytes after them are the rest. -/
theorem encodingADecodingGivesTheBytesBack : Obligations.EncodingADecodingGivesTheBytesBack := by
  intro bytes rest i h
  obtain ⟨op, tail, rfl, rfl, hlen, rfl⟩ := decode_eq_ok h
  refine ⟨decodeBytes_wellFormed _ _ _, ?_⟩
  rw [rowEncodes, bytesOf_eq_take _ _ _ (Instr.length_pos _) (Instr.length_le _),
    take_read_ahead _ _ (Instr.length_le _) hlen, List.take_append_drop]

/-! ## The words of the tables (rules R211 to R213) -/

/-- Settles O3: each word is evaluated. -/
theorem writtenOutWordsDecode : Obligations.WrittenOutWordsDecode :=
  ⟨rfl, rfl, rfl, rfl, rfl, rfl, rfl, rfl, rfl, rfl, rfl, rfl, rfl⟩

/-! ## The byte 0xCB and its second byte (rule R465) -/

/-- Both sides look at the three fields of the second byte, case for case. -/
theorem exec_prefixCb (op2 : Byte) (s : State) : exec (.prefixCb op2) s = exec (decodeCb op2) s := by
  show execPrefixCb op2 s = _
  unfold execPrefixCb decodeCb
  generalize (fieldX op2).toNat = x
  generalize (fieldY op2).toNat = y
  cases reg8? (fieldZ op2) <;> rcases x with _ | _ | _ | x
  case none.zero | some.zero => rcases y with _ | _ | _ | _ | _ | _ | _ | y <;> rfl
  all_goals rfl

theorem finish_took {s u : State} {n : Nat} (h : u.cycles = s.cycles) :
    ∃ t, finish n u = .next t ∧ Took n s t :=
  ⟨u.tick n, rfl, congrArg (· + n) h, rfl⟩

/-- On a register operand every operation of the CB format takes 8 cycles. -/
theorem exec_decodeCb_of_reg {op2 : Byte} {r : Reg8} (h : reg8? (fieldZ op2) = some r) (s : State) :
    ∃ t, exec (decodeCb op2) s = .next t ∧ Took 8 s t := by
  unfold decodeCb
  rw [h]
  dsimp only
  split
  · split <;> exact finish_took rfl
  all_goals exact finish_took rfl

/-- On the byte at HL a read-modify-write takes 16 cycles, and `BIT`, which writes nothing back, takes 12. -/
theorem exec_decodeCb_of_hl {op2 : Byte} (h : reg8? (fieldZ op2) = none) (s : State) :
    ∃ t, exec (decodeCb op2) s = .next t ∧ Took (if (fieldX op2).toNat = 1 then 12 else 16) s t := by
  unfold decodeCb
  rw [h]
  dsimp only
  split
  case h_1 hx =>
    rw [hx]
    split <;> exact finish_took (modifyHl_cycles _ _)
  case h_2 hx =>
    rw [hx]
    exact finish_took rfl
  case h_3 hx =>
    rw [hx]
    exact finish_took (memWrite_cycles _ _ _)
  case h_4 hx _ =>
    rw [if_neg hx]
    exact finish_took (memWrite_cycles _ _ _)

theorem reg8?_eq_none_iff (c : BitVec 3) : reg8? c = none ↔ c.toNat = 6 := by
  revert c
  decide

/-- Settles O4: 0xCB executes what `decodeCb` selects, and code 6 in `z` is the byte at HL. -/
theorem thePrefixByteExecutesWhatItsSecondByteSelects : Obligations.ThePrefixByteExecutesWhatItsSecondByteSelects := by
  intro op2 b2 s
  have hop := toNat_eq_fields op2
  have hz : op2.toNat % 8 = (fieldZ op2).toNat := by omega
  have hx : op2.toNat / 64 = (fieldX op2).toNat := by omega
  have hnone := reg8?_eq_none_iff (fieldZ op2)
  refine ⟨rfl, decodeCb_length op2, ?_⟩
  rw [hz, hx, exec_prefixCb]
  cases hr : reg8? (fieldZ op2) with
  | some r =>
    obtain ⟨t, e, took⟩ := exec_decodeCb_of_reg hr s
    rw [if_neg (by simp [← hnone, hr])]
    exact ⟨t, e, e, took⟩
  | none =>
    obtain ⟨t, e, took⟩ := exec_decodeCb_of_hl hr s
    rw [if_pos (hnone.mp hr)]
    exact ⟨t, e, e, took⟩

end Sys2Proof.Machine
end

section
/-! The 8-bit loads (`40_load8.md`), with what their frames are made of: the encoding of a well-formed instruction, the
registers that an update keeps, and the step of an instruction that writes registers and one that also stores. -/

namespace Sys2Proof.Machine

/-! ## Bytes and instructions -/

theorem Encoded.of_encode {i : Instr} (hi : i.wellFormed = true) {bytes : List Byte} (he : encode i = bytes) :
    Encoded bytes i := by
  subst he
  exact ⟨rfl, (length_encode i).symm, (readsBack_of_wellFormed hi).decode_append⟩

/-! ## The registers that an update keeps -/

theorem Regs.named_set_ne (g : Regs) {r : Reg8} {q : RegName} (h : q ≠ regName r) (v : Byte) :
    (g.set r v).named q = g.named q := by
  cases r <;> cases q <;> simp [regName] at h <;> rfl

theorem Regs.named_set16_of_not_mem (g : Regs) {rr : Reg16} {q : RegName} (h : q ∉ regNames rr) (v : Word) :
    (g.set16 rr v).named q = g.named q := by
  cases rr <;> cases q <;> simp [regNames] at h <;> rfl

section
variable {changed : List RegName} {s t : State}

theorem KeepsRegs.refl : KeepsRegs changed s s := fun _ _ => rfl

theorem KeepsRegs.memWrite (h : KeepsRegs changed s t) (a : Word) (v : Byte) :
    KeepsRegs changed s (memWrite t a v) := fun q hq => by rw [memWrite_regs, h q hq]

theorem KeepsRegs.setR8 (h : KeepsRegs changed s t) {r : Reg8} (hr : regName r ∈ changed) (v : Byte) :
    KeepsRegs changed s (t.setR8 r v) := fun q hq =>
  (Regs.named_set_ne _ (ne_of_mem_of_not_mem hr hq).symm v).trans (h q hq)

theorem KeepsRegs.setR16 (h : KeepsRegs changed s t) {rr : Reg16} (hr : regNames rr ⊆ changed) (v : Word) :
    KeepsRegs changed s (t.setR16 rr v) := fun q hq =>
  (Regs.named_set16_of_not_mem _ (fun e => hq (hr e)) v).trans (h q hq)

end

theorem KeepsControl.refl (s : State) : KeepsControl s s := ⟨rfl, rfl, rfl⟩

theorem KeepsControl.memWrite {s t : State} (h : KeepsControl s t) (a : Word) (v : Byte) :
    KeepsControl s (memWrite t a v) :=
  ⟨(memWrite_ime t a v).trans h.ime, (memWrite_eiPending t a v).trans h.eiPending, (memWrite_run t a v).trans h.run⟩

/-! ## The step of an instruction that writes registers, and of one that also stores -/

section
variable {n : Nat} {changed : List RegName} {s u : State}

/-- `u` is the state after the instruction's stores, `m`, but for its registers. -/
theorem storeStep_tick {m : State} (regs : KeepsRegs changed s u) (control : KeepsControl s m)
    (cycles : m.cycles = s.cycles) (hu : u = m.withRegs u.regs) : StoreStep n changed m s (u.tick n) where
  regs := regs
  control := by
    rw [hu]
    exact ⟨control.ime, control.eiPending, control.run⟩
  bus := by
    rw [hu]
    exact ⟨rfl, rfl, rfl, rfl, rfl, rfl, rfl, rfl, rfl, rfl, fun _ => rfl⟩
  took := by
    rw [hu]
    exact ⟨congrArg (· + n) cycles, rfl⟩

theorem registerStep_tick (regs : KeepsRegs changed s u) (hu : u = s.withRegs u.regs := by rfl) :
    RegisterStep n changed s (u.tick n) :=
  have ⟨regs, control, bus, took⟩ := storeStep_tick regs (.refl s) rfl hu
  ⟨regs, control, bus, took⟩

theorem storesByte_tick {a : Word} {v : Byte} (regs : KeepsRegs changed s u)
    (hu : u = (memWrite s a v).withRegs u.regs := by rfl) : StoresByte n changed a v s (u.tick n) where
  step := storeStep_tick regs ((KeepsControl.refl s).memWrite a v) (memWrite_cycles s a v) hu
  frame := fun b hb => by
    rw [hu]
    exact memRead_memWrite_of_not_mayChange hb v

end

/-! ## The addresses -/

/-- The page of `LDH` as a sum (`40_load8.md` rules R261 to R264). -/
theorem highPage_eq (n : Byte) : highPage n = 0xFF00 + n.setWidth 16 := by
  apply BitVec.eq_of_toNat_eq
  have := n.isLt
  simp only [highPage, wordOf_toNat, BitVec.toNat_add, BitVec.toNat_setWidth, BitVec.reduceToNat]
  omega

theorem addrHl_setR16_hl (s : State) (v : Word) : (s.setR16 .hl v).addrHl = v := s.r16_setR16_self .hl v

/-! ## The shapes of the stores and the loads -/

theorem finish_memWrite_storesByte (n : Nat) (a : Word) (v : Byte) (s : State) :
    ∃ t, finish n (memWrite s a v) = .next t ∧ StoresByte n [] a v s t :=
  ⟨_, rfl, storesByte_tick (KeepsRegs.refl.memWrite a v)⟩

/-- The store of `LD (HL-),A` and `LD (HL+),A` is at the HL from before the move. -/
theorem finish_writeHl_setR16_storesByte (n : Nat) (v : Byte) (w : Word) (s : State) :
    ∃ t, finish n ((s.writeHl v).setR16 .hl w) = .next t ∧ t.addrHl = w ∧ StoresByte n [.h, .l] s.addrHl v s t := by
  have regs : KeepsRegs [.h, .l] s ((s.writeHl v).setR16 .hl w) :=
    (KeepsRegs.refl.memWrite s.hl v).setR16 (rr := .hl) (List.Subset.refl _) w
  exact ⟨_, rfl, addrHl_setR16_hl _ w, storesByte_tick regs⟩

theorem finish_setR8_registerStep (n : Nat) (r : Reg8) (v : Byte) (s : State) :
    ∃ t, finish n (s.setR8 r v) = .next t ∧ t.r8 r = v ∧ RegisterStep n [regName r] s t :=
  ⟨_, rfl, s.r8_setR8_self r v, registerStep_tick (KeepsRegs.refl.setR8 (List.mem_singleton_self _) v)⟩

/-- The read of `LD A,(HL-)` and `LD A,(HL+)` is at the HL from before the move. -/
theorem finish_setR8_setR16_registerStep (n : Nat) (w : Word) (s : State) :
    ∃ t, finish n ((s.setR8 .a s.readHl).setR16 .hl w) = .next t ∧ t.regs.a = memRead s s.addrHl ∧ t.addrHl = w ∧
      RegisterStep n [.a, .h, .l] s t := by
  have regs : KeepsRegs [.a, .h, .l] s ((s.setR8 .a s.readHl).setR16 .hl w) :=
    (KeepsRegs.refl.setR8 (r := .a) List.mem_cons_self s.readHl).setR16 (rr := .hl) (List.subset_cons_self _ _) w
  exact ⟨_, rfl, rfl, addrHl_setR16_hl _ w, registerStep_tick regs⟩

/-! ## The obligations -/

/-- Settles O24: each store is one Bus write, and those at HL± one write of HL after it. -/
theorem eightBitStores : Obligations.EightBitStores := fun s =>
  ⟨fun r => ⟨.of_encode rfl rfl, finish_memWrite_storesByte 8 s.addrHl (s.r8 r) s⟩,
   fun n => ⟨.of_encode rfl rfl, finish_memWrite_storesByte 12 s.addrHl n s⟩,
   ⟨.of_encode rfl rfl, finish_memWrite_storesByte 8 (s.r16 .bc) s.regs.a s⟩,
   ⟨.of_encode rfl rfl, finish_memWrite_storesByte 8 (s.r16 .de) s.regs.a s⟩,
   fun nn => ⟨.of_encode rfl rfl, finish_memWrite_storesByte 16 nn s.regs.a s⟩,
   ⟨.of_encode rfl rfl, highPage_eq s.regs.c ▸ finish_memWrite_storesByte 8 (highPage s.regs.c) s.regs.a s⟩,
   fun n => ⟨.of_encode rfl rfl, highPage_eq n ▸ finish_memWrite_storesByte 12 (highPage n) s.regs.a s⟩,
   ⟨.of_encode rfl rfl, finish_writeHl_setR16_storesByte 8 s.regs.a (s.hl - 1) s⟩,
   ⟨.of_encode rfl rfl, finish_writeHl_setR16_storesByte 8 s.regs.a (s.hl + 1) s⟩⟩

/-- Settles O23: each load is one register write of its source, and those at HL± one write of HL after it. -/
theorem eightBitLoadsToRegisters : Obligations.EightBitLoadsToRegisters := fun s =>
  ⟨fun dst src => ⟨.of_encode rfl rfl, finish_setR8_registerStep 4 dst (s.r8 src) s⟩,
   fun dst n => ⟨.of_encode rfl rfl, finish_setR8_registerStep 8 dst n s⟩,
   fun dst => ⟨.of_encode rfl rfl, finish_setR8_registerStep 8 dst s.readHl s⟩,
   ⟨.of_encode rfl rfl, finish_setR8_registerStep 8 .a (memRead s (s.r16 .bc)) s⟩,
   ⟨.of_encode rfl rfl, finish_setR8_registerStep 8 .a (memRead s (s.r16 .de)) s⟩,
   fun nn => ⟨.of_encode rfl rfl, finish_setR8_registerStep 16 .a (memRead s nn) s⟩,
   ⟨.of_encode rfl rfl, highPage_eq s.regs.c ▸ finish_setR8_registerStep 8 .a (memRead s (highPage s.regs.c)) s⟩,
   fun n => ⟨.of_encode rfl rfl, highPage_eq n ▸ finish_setR8_registerStep 12 .a (memRead s (highPage n)) s⟩,
   ⟨.of_encode rfl rfl, finish_setR8_setR16_registerStep 8 (s.hl - 1) s⟩,
   ⟨.of_encode rfl rfl, finish_setR8_setR16_registerStep 8 (s.hl + 1) s⟩⟩

end Sys2Proof.Machine
end

section
/-! The 16-bit loads and the stack (`41_load16.md`): the step of a pair's write, of two stores, of a push and of a pop,
and the sum of SP and a displacement. -/

namespace Sys2Proof.Machine

/-! ## The registers that an update keeps -/

section
variable {changed : List RegName} {s t : State}

theorem KeepsRegs.setF (h : KeepsRegs changed s t) (hf : .f ∈ changed) (f : Byte) :
    KeepsRegs changed s (t.setF f) := by
  intro q hq
  rw [← h q hq]
  cases q
  case f => exact absurd hf hq
  all_goals rfl

theorem KeepsRegs.setSp (h : KeepsRegs changed s t) (hsp : .sp ∈ changed) (v : Word) :
    KeepsRegs changed s (t.setSp v) :=
  h.setR16 (rr := .sp) (List.cons_subset.mpr ⟨hsp, List.nil_subset _⟩) v

end

/-! ## The step of a pair's write, of two stores and of a push -/

theorem finish_setR16_registerStep (n : Nat) (rr : Reg16) (v : Word) (s : State) :
    ∃ t, finish n (s.setR16 rr v) = .next t ∧ t.r16 rr = v ∧ RegisterStep n (regNames rr) s t :=
  ⟨_, rfl, s.r16_setR16_self rr v, registerStep_tick (KeepsRegs.refl.setR16 (List.Subset.refl _) v)⟩

/-- The frame of two stores: a byte that neither may change, each as the machine stands before it. -/
theorem memRead_memWrite_twice_of_not_mayChange {s : State} {a a' b : Word} {v : Byte} (h : ¬ MayChange s a b)
    (h' : ¬ MayChange (memWrite s a v) a' b) (v' : Byte) :
    memRead (memWrite (memWrite s a v) a' v') b = memRead s b :=
  (memRead_memWrite_of_not_mayChange h' v').trans (memRead_memWrite_of_not_mayChange h v)

/-- The step of two stores, the second after the first, and of what is written of the registers beside them. -/
theorem storeStep_twice_tick {n : Nat} {changed : List RegName} {s u : State} {a a' : Word} {v v' : Byte}
    (regs : KeepsRegs changed s u) (hu : u = (memWrite (memWrite s a v) a' v').withRegs u.regs) :
    StoreStep n changed (memWrite (memWrite s a v) a' v') s (u.tick n) :=
  storeStep_tick regs (((KeepsControl.refl s).memWrite a v).memWrite a' v')
    ((memWrite_cycles _ a' v').trans (memWrite_cycles s a v)) hu

/-- The step of a push, and of what is written of the registers beside it (`00_scope.md` rule R18). -/
theorem pushes_tick {n : Nat} {changed : List RegName} {v : Word} {s u : State}
    (regs : KeepsRegs (.sp :: changed) s u) (hu : u = (pushed s v).withRegs u.regs)
    (sp : u.regs.sp = s.regs.sp - 2) : Pushes n changed v s (u.tick n) where
  step := storeStep_twice_tick regs hu
  frame := fun b h h' => by
    rw [hu]
    exact memRead_memWrite_twice_of_not_mayChange h h' (loByte v)
  sp := sp

/-- `Push16` is the two stores, and SP moved (`00_scope.md` rule R18). -/
theorem push16_eq_pushed (s : State) (v : Word) : push16 s v = (pushed s v).setSp (s.regs.sp - 2) := push16_eq s v

theorem KeepsRegs.pushed {changed : List RegName} {s t : State} (h : KeepsRegs changed s t) (v : Word) :
    KeepsRegs changed s (pushed t v) := (h.memWrite _ _).memWrite _ _

theorem finish_push16_pushes (n : Nat) (v : Word) (s : State) :
    ∃ t, finish n (push16 s v) = .next t ∧ Pushes n [] v s t := by
  rw [push16_eq_pushed]
  exact ⟨_, rfl, pushes_tick ((KeepsRegs.refl.pushed v).setSp List.mem_cons_self _) rfl rfl⟩

/-! ## Flag bytes -/

theorem flagsAre_mkF (z n h c : Bool) : FlagsAre (mkF z n h c) z n h c :=
  ⟨flagZ_mkF z n h c, flagN_mkF z n h c, flagH_mkF z n h c, flagC_mkF z n h c, mkF_low z n h c⟩

/-- The flags of a byte popped into F (rule R287). -/
theorem flagsAre_and_F0 (v : Byte) :
    FlagsAre (v &&& 0xF0) (v.getLsbD 7) (v.getLsbD 6) (v.getLsbD 5) (v.getLsbD 4) := by
  have bit {j : Nat} (hmask : (0xF0 : Byte).getLsbD j = true) : (v &&& 0xF0).getLsbD j = v.getLsbD j := by
    rw [BitVec.getLsbD_and, hmask, Bool.and_true]
  exact ⟨bit rfl, bit rfl, bit rfl, bit rfl, and_F0_low v⟩

/-! ## The sum of SP and a displacement (`43_alu16.md` rule R364) -/

/-- A word plus a sign-extended byte is the sum on integers, wrapped. -/
theorem add_signExtend_toNat (w : Word) (e : Byte) :
    ((w + e.signExtend 16).toNat : Int) = (w.toNat + e.toInt) % 65536 := by
  have hsum : w + e.signExtend 16 = BitVec.ofInt 16 (w.toNat + e.toInt) := by
    rw [BitVec.ofInt_add, BitVec.ofInt_natCast, BitVec.ofNat_toNat, BitVec.setWidth_eq]
    rfl
  rw [hsum, BitVec.toNat_ofInt]
  omega

/-- A mask of the `n` low bits leaves a word modulo `2 ^ n`. -/
theorem word_and_mask_toNat {mask : Word} {n : Nat} (hmask : mask.toNat = 2 ^ n - 1) (w : Word) :
    (w &&& mask).toNat = w.toNat % 2 ^ n := by
  rw [BitVec.toNat_and, hmask, Nat.and_two_pow_sub_one_eq_mod]

/-- The carries are those of adding the raw byte to the low byte. -/
theorem addSpE16_eq (sp : Word) (b : Byte) :
    addSpE16 sp b =
      { r := sp + b.signExtend 16
        h := 15 < sp.toNat % 16 + b.toNat % 16
        c := 255 < sp.toNat % 256 + b.toNat } := by
  rw [addSpE16, word_and_mask_toNat (n := 4) rfl, word_and_mask_toNat (n := 8) rfl, and_mask_toNat (n := 4) rfl]
  rfl

/-- The flag byte of the sum. -/
theorem addSpE16_flags (sp : Word) (b : Byte) :
    FlagsAre (mkF false false (addSpE16 sp b).h (addSpE16 sp b).c) false false (15 < sp.toNat % 16 + b.toNat % 16)
      (255 < sp.toNat % 256 + b.toNat) := by
  rw [addSpE16_eq]
  exact flagsAre_mkF _ _ _ _

theorem addSpE16_toNat (sp : Word) (b : Byte) : ((addSpE16 sp b).r.toNat : Int) = (sp.toNat + b.toInt) % 65536 :=
  add_signExtend_toNat sp b

/-! ## The obligations -/

/-- Settles O25: a load is one write of a pair, and the store of SP two Bus writes. -/
theorem sixteenBitLoads : Obligations.SixteenBitLoads := fun s =>
  ⟨fun rr nn => ⟨.of_encode rfl rfl, finish_setR16_registerStep 12 rr nn s⟩,
   fun _ => ⟨.of_encode rfl rfl, _, _, rfl, rfl,
     storeStep_twice_tick ((KeepsRegs.refl.memWrite _ _).memWrite _ _) rfl,
     fun _ h h' => memRead_memWrite_twice_of_not_mayChange h h' (hiByte s.regs.sp)⟩,
   ⟨.of_encode rfl rfl, finish_setR16_registerStep 8 .sp s.addrHl s⟩⟩

/-- Settles O26: both write the one sum and its flag byte, to HL and to SP. -/
theorem stackPointerPlusDisplacement : Obligations.StackPointerPlusDisplacement := by
  intro e s
  have regsHl : KeepsRegs [.h, .l, .f] s (s.setR16 .hl (addSpE16 s.regs.sp e).r) :=
    KeepsRegs.refl.setR16 (List.subset_append_left (regNames .hl) [.f]) _
  have regsSp : KeepsRegs [.sp, .f] s (s.setSp (addSpE16 s.regs.sp e).r) := KeepsRegs.refl.setSp List.mem_cons_self _
  have hl (f : Byte) : (((s.setR16 .hl (addSpE16 s.regs.sp e).r).setF f).tick 12).addrHl = (addSpE16 s.regs.sp e).r :=
    addrHl_setR16_hl s _
  constructor
  · refine ⟨.of_encode rfl rfl, _, rfl, ?_, addSpE16_flags s.regs.sp e,
      registerStep_tick (regsHl.setF (by decide) _)⟩
    rw [hl, addSpE16_toNat]
  · exact ⟨.of_encode rfl rfl, _, rfl, addSpE16_toNat s.regs.sp e, addSpE16_flags s.regs.sp e,
      registerStep_tick (regsSp.setF (by decide) _)⟩

/-- Settles O27: each is one push of its word. -/
theorem pushesStoreThePairBelowSp : Obligations.PushesStoreThePairBelowSp := fun s =>
  ⟨fun rr => ⟨.of_encode rfl rfl, finish_push16_pushes 16 (s.r16 (pairReg16 rr)) s⟩,
   ⟨.of_encode rfl rfl, finish_push16_pushes 16 (wordOf s.regs.a s.regs.f) s⟩⟩

/-- Settles O28: SP moves past the two bytes, and the word they make goes to the pair, or its halves to A and F. -/
theorem popsLoadThePairAtSp : Obligations.PopsLoadThePairAtSp := by
  intro s
  have moved {changed : List RegName} (h : .sp ∈ changed) : KeepsRegs changed s (popped s) := KeepsRegs.refl.setSp h _
  have low : loByte (popValue s) = memRead s s.regs.sp := loByte_wordOf _ _
  refine ⟨fun rr => ?pair, ?af⟩
  case pair =>
    have regs := (moved List.mem_cons_self).setR16 (List.subset_cons_self .sp (regNames (pairReg16 rr))) (popValue s)
    refine ⟨.of_encode rfl rfl, _, rfl, State.r16_setR16_self _ _ _, ?_, registerStep_tick regs⟩
    cases rr <;> rfl
  case af =>
    have regs : KeepsRegs [.a, .f, .sp] s ((popped s).setR8 .a (hiByte (popValue s))) :=
      (moved (by decide)).setR8 (r := .a) List.mem_cons_self _
    exact ⟨.of_encode rfl rfl, _, rfl, hiByte_wordOf _ _, low ▸ flagsAre_and_F0 _, rfl,
      registerStep_tick (regs.setF (by decide) _)⟩

end Sys2Proof.Machine
end

section
/-! The 8-bit arithmetic and logic (`42_alu8.md`): what each function of two bytes gives, as numbers and as flags, the
operations on A over their three sources, and the step of a read, a change and a write of one byte. -/

namespace Sys2Proof.Machine

/-! ## The results and the flags of the 8-bit functions -/

theorem AluResult.flagsAre (x : AluResult) : FlagsAre x.flags x.z x.n x.h x.c := flagsAre_mkF x.z x.n x.h x.c

theorem byte_beq_zero (v : Byte) : (v == 0) = decide (v.toNat = 0) :=
  decide_eq_decide.mpr BitVec.toNat_inj.symm

theorem and_0F_toNat (v : Byte) : (v &&& 0x0F).toNat = v.toNat % 16 := and_mask_toNat (n := 4) rfl v

theorem and_0F_beq {k : Byte} {n : Nat} (hk : k.toNat = n) (v : Byte) :
    (v &&& 0x0F == k) = decide (v.toNat % 16 = n) := by
  rw [← and_0F_toNat, ← hk]
  exact decide_eq_decide.mpr BitVec.toNat_inj.symm

theorem add8_toNat (a b : Byte) (cin : Bool) : (add8 a b cin).r.toNat = (a.toNat + b.toNat + cin.toNat) % 256 :=
  BitVec.toNat_ofNat _ 8

theorem add8_flags (a b : Byte) (cin : Bool) :
    FlagsAre (add8 a b cin).flags ((a.toNat + b.toNat + cin.toNat) % 256 = 0) false
      (15 < a.toNat % 16 + b.toNat % 16 + cin.toNat) (255 < a.toNat + b.toNat + cin.toNat) := by
  rw [← add8_toNat, ← byte_beq_zero, ← and_0F_toNat, ← and_0F_toNat]
  exact (add8 a b cin).flagsAre

theorem sub8_toNat (a b : Byte) (cin : Bool) :
    ((sub8 a b cin).r.toNat : Int) = ((a.toNat : Int) - b.toNat - cin.toNat) % 256 := by
  rw [sub8, BitVec.toNat_ofInt]
  exact Int.toNat_of_nonneg (Int.emod_nonneg _ (by decide))

theorem sub8_flags (a b : Byte) (cin : Bool) :
    FlagsAre (sub8 a b cin).flags (((a.toNat : Int) - b.toNat - cin.toNat) % 256 = 0) true
      (a.toNat % 16 < b.toNat % 16 + cin.toNat) (a.toNat < b.toNat + cin.toNat) := by
  rw [← sub8_toNat, ← and_0F_toNat, ← and_0F_toNat]
  have hz : decide (((sub8 a b cin).r.toNat : Int) = 0) = (sub8 a b cin).z := by
    rw [decide_eq_decide.mpr Int.natCast_eq_zero, ← byte_beq_zero]
    rfl
  rw [hz]
  exact (sub8 a b cin).flagsAre

/-- One up is the sum with 1 on numbers, wrapped (rules R334, R335). -/
theorem byte_add_one_eq (v : Byte) : v + 1 = BitVec.ofNat 8 (v.toNat + 1) := by bv_omega

/-- One down is the sum with 255, wrapped (rules R336, R337). -/
theorem byte_sub_one_eq (v : Byte) : v - 1 = BitVec.ofNat 8 (v.toNat + 255) := by bv_omega

theorem inc8_toNat (v : Byte) (c : Bool) : (inc8 v c).r.toNat = (v.toNat + 1) % 256 := by
  rw [inc8, byte_add_one_eq, BitVec.toNat_ofNat]

theorem inc8_flags (v : Byte) (c : Bool) :
    FlagsAre (inc8 v c).flags ((v.toNat + 1) % 256 = 0) false (v.toNat % 16 = 15) c := by
  rw [← inc8_toNat v c, ← byte_beq_zero, ← and_0F_beq (k := 15) (n := 15) rfl]
  exact (inc8 v c).flagsAre

theorem dec8_toNat (v : Byte) (c : Bool) : (dec8 v c).r.toNat = (v.toNat + 255) % 256 := by
  rw [dec8, byte_sub_one_eq, BitVec.toNat_ofNat]

theorem dec8_flags (v : Byte) (c : Bool) :
    FlagsAre (dec8 v c).flags ((v.toNat + 255) % 256 = 0) true (v.toNat % 16 = 0) c := by
  rw [← dec8_toNat v c, ← byte_beq_zero, ← and_0F_beq (k := 0) (n := 0) rfl]
  exact (dec8 v c).flagsAre

theorem xor_FF_toNat (v : Byte) : (v ^^^ 0xFF).toNat = 255 - v.toNat :=
  (congrArg BitVec.toNat (BitVec.xor_allOnes (x := v))).trans BitVec.toNat_not

/-! ## `DAA` (rule R338) -/

/-- Whether the low digit is adjusted. -/
def daaLow (a f : Byte) : Bool := flagH f || (!flagN f && decide (9 < a.toNat % 16))

/-- Whether the high digit is adjusted, by the same A. -/
def daaHigh (a f : Byte) : Bool := flagC f || (!flagN f && decide (0x99 < a.toNat))

/-- The byte that `DAA` adds or subtracts. -/
def daaAdjustment (a f : Byte) : Byte := (if daaLow a f then 0x06 else 0x00) ||| (if daaHigh a f then 0x60 else 0x00)

/-- The two digits' adjustments share no bit, so that their union is their sum. -/
theorem daaAdjustment_toNat (a f : Byte) :
    (daaAdjustment a f).toNat = (if daaLow a f then 0x06 else 0) + (if daaHigh a f then 0x60 else 0) := by
  unfold daaAdjustment
  cases daaLow a f <;> cases daaHigh a f <;> rfl

theorem daa8_r (a f : Byte) :
    (daa8 a f).r = if flagN f then a - daaAdjustment a f else a + daaAdjustment a f := by
  unfold daa8 daaAdjustment daaLow daaHigh
  rw [and_0F_toNat]
  cases flagN f <;> simp

theorem daa8_toNat (a f : Byte) :
    (daa8 a f).r.toNat =
      (if flagN f then a.toNat + 256 - (daaAdjustment a f).toNat else a.toNat + (daaAdjustment a f).toNat) % 256 := by
  rw [daa8_r]
  split <;> bv_omega

theorem daa8_c (a f : Byte) : (daa8 a f).c = daaHigh a f := by
  unfold daa8 daaHigh
  cases flagN f <;> simp

/-! ## The operations on A (rule R303) -/

/-- The operations that write A, in the order of their numbers; CP, the eighth, writes flags alone. -/
inductive AccOp where
  | add | adc | sub | sbc | and | xor | or

/-- The operation's number (`30_encoding.md` rule R207). -/
def AccOp.code : AccOp → BitVec 3
  | .add => 0 | .adc => 1 | .sub => 2 | .sbc => 3 | .and => 4 | .xor => 5 | .or => 6

/-- The operation's three rows. -/
def AccOp.form : AccOp → AluSource → Instr
  | .add => addForm | .adc => adcForm | .sub => subForm | .sbc => sbcForm
  | .and => andForm | .xor => xorForm | .or => orForm

/-- The operation's function of A, the operand and the carry. -/
def AccOp.result (op : AccOp) (a v : Byte) (c : Bool) : AluResult :=
  match op with
  | .add => add8 a v false
  | .adc => add8 a v c
  | .sub => sub8 a v false
  | .sbc => sub8 a v c
  | .and => and8 a v
  | .xor => xor8 a v
  | .or => or8 a v

theorem AccOp.encoded (op : AccOp) (x : AluSource) : Encoded (x.bytes op.code) (op.form x) := by
  cases op <;> cases x <;> exact .of_encode rfl rfl

theorem AccOp.exec_form (op : AccOp) (x : AluSource) (s : State) :
    exec (op.form x) s = finish x.cycles (s.setAF (op.result s.regs.a (x.value s) (flagC s.regs.f))) := by
  cases op <;> cases x <;> rfl

theorem encoded_cpForm (x : AluSource) : Encoded (x.bytes 7) (cpForm x) := by
  cases x <;> exact .of_encode rfl rfl

theorem exec_cpForm (x : AluSource) (s : State) :
    exec (cpForm x) s = finish x.cycles (s.setF (sub8 s.regs.a (x.value s) false).flags) := by
  cases x <;> rfl

/-! ## The steps -/

/-- The step of an instruction that writes A and F. -/
theorem setAF_registerStep (n : Nat) (x : AluResult) (s : State) :
    RegisterStep n [.a, .f] s ((s.setAF x).tick n) :=
  registerStep_tick ((KeepsRegs.refl.setR8 (r := .a) List.mem_cons_self x.r).setF (by decide) x.flags)

/-- The step of an instruction that writes F alone. -/
theorem setF_registerStep (n : Nat) (f : Byte) (s : State) : RegisterStep n [.f] s ((s.setF f).tick n) :=
  registerStep_tick (KeepsRegs.refl.setF List.mem_cons_self f)

theorem r8_modifyR8_self (r : Reg8) (f : Byte → AluResult) (s : State) :
    (modifyR8 r f s).r8 r = (f (s.r8 r)).r := by
  cases r <;> rfl

/-- The step of a register's read, change and write. -/
theorem modifyR8_registerStep (n : Nat) (r : Reg8) (f : Byte → AluResult) (s : State) :
    RegisterStep n [regName r, .f] s ((modifyR8 r f s).tick n) :=
  registerStep_tick ((KeepsRegs.refl.setR8 List.mem_cons_self _).setF (List.mem_cons_of_mem _ List.mem_cons_self) _)

/-- The step of the read, change and write of the byte at HL. -/
theorem modifyHl_storesByte (n : Nat) (f : Byte → AluResult) (s : State) :
    StoresByte n [.f] s.addrHl (f (memRead s s.addrHl)).r s ((modifyHl f s).tick n) :=
  storesByte_tick ((KeepsRegs.refl.memWrite _ _).setF List.mem_cons_self _)

/-! ## The obligations -/

/-- Settles O29: both write the one sum, ADC with the carry in. -/
theorem addAndAdcGiveTheSumAndItsCarries : Obligations.AddAndAdcGiveTheSumAndItsCarries := fun x s =>
  ⟨⟨AccOp.encoded .add x, _, AccOp.exec_form .add x s, add8_toNat _ _ _, add8_flags _ _ _, setAF_registerStep _ _ s⟩,
   ⟨AccOp.encoded .adc x, _, AccOp.exec_form .adc x s, add8_toNat _ _ _, add8_flags _ _ _, setAF_registerStep _ _ s⟩⟩

/-- Settles O30: all three take the one difference, SBC with the carry in, and CP writes its flags alone. -/
theorem subSbcAndCpGiveTheDifferenceAndItsBorrows : Obligations.SubSbcAndCpGiveTheDifferenceAndItsBorrows := fun x s =>
  ⟨⟨AccOp.encoded .sub x, _, AccOp.exec_form .sub x s, sub8_toNat _ _ _, sub8_flags _ _ _, setAF_registerStep _ _ s⟩,
   ⟨AccOp.encoded .sbc x, _, AccOp.exec_form .sbc x s, sub8_toNat _ _ _, sub8_flags _ _ _, setAF_registerStep _ _ s⟩,
   ⟨encoded_cpForm x, _, exec_cpForm x s, sub8_flags _ _ _, setF_registerStep _ _ s⟩⟩

/-- Settles O31: each result bit is the operation on the operands' bits. -/
theorem andXorAndOrActBitByBit : Obligations.AndXorAndOrActBitByBit := fun x s =>
  ⟨⟨AccOp.encoded .and x, _, AccOp.exec_form .and x s, fun _ _ => BitVec.getLsbD_and,
     (and8 s.regs.a (x.value s)).flagsAre, setAF_registerStep _ _ s⟩,
   ⟨AccOp.encoded .xor x, _, AccOp.exec_form .xor x s, fun _ _ => BitVec.getLsbD_xor,
     (xor8 s.regs.a (x.value s)).flagsAre, setAF_registerStep _ _ s⟩,
   ⟨AccOp.encoded .or x, _, AccOp.exec_form .or x s, fun _ _ => BitVec.getLsbD_or,
     (or8 s.regs.a (x.value s)).flagsAre, setAF_registerStep _ _ s⟩⟩

/-- Settles O32: each is one read, change and write of a byte, with the carry from before it. -/
theorem incAndDecOfAByteKeepTheCarry : Obligations.IncAndDecOfAByteKeepTheCarry := by
  intro s
  refine ⟨fun r => ⟨.of_encode rfl rfl, ?incR⟩, ⟨.of_encode rfl rfl, ?incHl⟩,
    fun r => ⟨.of_encode rfl rfl, ?decR⟩, ⟨.of_encode rfl rfl, ?decHl⟩⟩
  case incR =>
    refine ⟨_, rfl, ?_, inc8_flags (s.r8 r) s.carry, modifyR8_registerStep 4 r _ s⟩
    exact (congrArg BitVec.toNat (r8_modifyR8_self r (inc8 · s.carry) s)).trans (inc8_toNat _ _)
  case incHl =>
    refine ⟨_, rfl, inc8_flags (memRead s s.addrHl) s.carry, ?_⟩
    rw [← byte_add_one_eq]
    exact modifyHl_storesByte 12 (inc8 · s.carry) s
  case decR =>
    refine ⟨_, rfl, ?_, dec8_flags (s.r8 r) s.carry, modifyR8_registerStep 4 r _ s⟩
    exact (congrArg BitVec.toNat (r8_modifyR8_self r (dec8 · s.carry) s)).trans (dec8_toNat _ _)
  case decHl =>
    refine ⟨_, rfl, dec8_flags (memRead s s.addrHl) s.carry, ?_⟩
    rw [← byte_sub_one_eq]
    exact modifyHl_storesByte 12 (dec8 · s.carry) s

/-- Settles O33: the model's adjustment is the sum of the two digits' adjustments. -/
theorem daaAdjustsEachDigit : Obligations.DaaAdjustsEachDigit := by
  refine ⟨.of_encode rfl rfl, fun s => ⟨_, rfl, ?value, ?flags, setAF_registerStep 4 _ s⟩⟩
  case value => exact (daa8_toNat _ _).trans (daaAdjustment_toNat s.regs.a s.regs.f ▸ rfl)
  case flags =>
    have flags := (daa8 s.regs.a s.regs.f).flagsAre
    rw [daa8_c] at flags
    exact flags

/-- Settles O34: CPL writes A and F, and SCF and CCF write F alone, each with the Z from before it. -/
theorem cplScfAndCcf : Obligations.CplScfAndCcf := fun s =>
  ⟨⟨.of_encode rfl rfl, _, rfl, xor_FF_toNat s.regs.a, flagsAre_mkF _ _ _ _,
     registerStep_tick ((KeepsRegs.refl.setR8 (r := .a) List.mem_cons_self _).setF (by decide) _)⟩,
   ⟨.of_encode rfl rfl, _, rfl, flagsAre_mkF _ _ _ _, setF_registerStep 4 _ s⟩,
   ⟨.of_encode rfl rfl, _, rfl, flagsAre_mkF _ _ _ _, setF_registerStep 4 _ s⟩⟩

end Sys2Proof.Machine
end

section
/-! The 16-bit arithmetic (`43_alu16.md`): the sums on words as numbers, and the flags of `ADD HL,rr`. -/

namespace Sys2Proof.Machine

/-! ## The sums -/

theorem addHl16_toNat (hl v : Word) : (addHl16 hl v).r.toNat = (hl.toNat + v.toNat) % 65536 := BitVec.toNat_ofNat _ 16

/-- Z is the flag from before; the carry out of bit 11 is that of the low 12 bits (rule R360). -/
theorem addHl16_flags (hl v : Word) (z : Bool) :
    FlagsAre (mkF z false (addHl16 hl v).h (addHl16 hl v).c) z false (4095 < hl.toNat % 4096 + v.toNat % 4096)
      (65535 < hl.toNat + v.toNat) := by
  have low (w : Word) : (w &&& 0x0FFF).toNat = w.toNat % 4096 := word_and_mask_toNat (n := 12) rfl w
  rw [← low, ← low]
  exact flagsAre_mkF _ _ _ _

theorem word_add_one_toNat (v : Word) : (v + 1).toNat = (v.toNat + 1) % 65536 := BitVec.toNat_add v 1

/-- One down is the sum with 65535, wrapped (rule R362). -/
theorem word_sub_one_toNat (v : Word) : (v - 1).toNat = (v.toNat + 65535) % 65536 := by bv_omega

/-! ## The steps -/

/-- The step of an instruction that writes HL and F. -/
theorem setR16_hl_setF_registerStep (n : Nat) (v : Word) (f : Byte) (s : State) :
    RegisterStep n [.h, .l, .f] s (((s.setR16 .hl v).setF f).tick n) :=
  registerStep_tick ((KeepsRegs.refl.setR16 (List.subset_append_left (regNames .hl) [.f]) v).setF (by decide) f)

/-- The step of an instruction that writes one pair, with the number written. -/
theorem finish_setR16_toNat_registerStep (n : Nat) (rr : Reg16) {v : Word} {k : Nat} (hv : v.toNat = k) (s : State) :
    ∃ t, finish n (s.setR16 rr v) = .next t ∧ (t.r16 rr).toNat = k ∧ RegisterStep n (regNames rr) s t := by
  obtain ⟨t, next, written, step⟩ := finish_setR16_registerStep n rr v s
  exact ⟨t, next, written ▸ hv, step⟩

/-! ## The obligation -/

/-- Settles O35: ADD writes its one sum to HL and the flags to F, INC and DEC write the pair alone. -/
theorem sixteenBitArithmetic : Obligations.SixteenBitArithmetic := by
  intro rr s
  refine ⟨⟨.of_encode rfl rfl, ?add⟩, ⟨.of_encode rfl rfl, ?inc⟩, ⟨.of_encode rfl rfl, ?dec⟩⟩
  case add =>
    refine ⟨_, rfl, ?_, addHl16_flags s.hl (s.r16 rr) _, setR16_hl_setF_registerStep 8 _ _ s⟩
    exact (congrArg BitVec.toNat (addrHl_setR16_hl s _)).trans (addHl16_toNat s.hl (s.r16 rr))
  case inc => exact finish_setR16_toNat_registerStep 8 rr (word_add_one_toNat (s.r16 rr)) s
  case dec => exact finish_setR16_toNat_registerStep 8 rr (word_sub_one_toNat (s.r16 rr)) s

end Sys2Proof.Machine
end

section
/-! The rotates, shifts and bit operations (`44_rotate_shift_bit.md`): where a rotate or shift moves each bit of a byte,
which bit `RES` and `SET` write, and the steps on A, a register and the byte at HL. -/

namespace Sys2Proof.Machine

/-! ## Where a rotate or shift moves each bit (rule R380) -/

/-- A shift one up, with `b` shifted in. -/
theorem shiftLeft_or_ofBool_getLsbD (v : Byte) (b : Bool) {k : Nat} (hk : k < 8) :
    ((v <<< 1) ||| (BitVec.ofBool b).setWidth 8).getLsbD k = if k = 0 then b else v.getLsbD (k - 1) := by
  rw [BitVec.getLsbD_or, BitVec.getLsbD_shiftLeft, BitVec.getLsbD_setWidth, BitVec.getLsbD_ofBool]
  by_cases h0 : k = 0
  · simp [h0]
  · simp [h0, hk]

/-- A shift one down, with `b` shifted in. -/
theorem ushiftRight_or_ofBool_getLsbD (v : Byte) (b : Bool) {k : Nat} (hk : k < 8) :
    ((v >>> 1) ||| ((BitVec.ofBool b).setWidth 8 <<< 7)).getLsbD k = if k = 7 then b else v.getLsbD (k + 1) := by
  rw [BitVec.getLsbD_or, BitVec.getLsbD_ushiftRight, BitVec.getLsbD_shiftLeft, BitVec.getLsbD_setWidth,
    BitVec.getLsbD_ofBool]
  by_cases h7 : k = 7
  · simp [h7]
  · have hlt : k < 7 := by omega
    simp [h7, hlt, Nat.add_comm]

/-- The nibbles exchanged. -/
theorem swap_getLsbD (v : Byte) {k : Nat} (hk : k < 8) :
    (v.extractLsb' 0 4 ++ v.extractLsb' 4 4).getLsbD k = if k < 4 then v.getLsbD (k + 4) else v.getLsbD (k - 4) := by
  rw [BitVec.getLsbD_append, BitVec.getLsbD_extractLsb', BitVec.getLsbD_extractLsb']
  by_cases h4 : k < 4
  · simp [h4, Nat.add_comm]
  · have hlt : k - 4 < 4 := by omega
    simp [h4, hlt]

/-- Bit 7 kept is bit 7 shifted in. -/
theorem and_80_eq (v : Byte) : v &&& (0x80 : Byte) = (BitVec.ofBool (v.getLsbD 7)).setWidth 8 <<< 7 := by
  refine (BitVec.and_twoPow v 7).trans ?_
  cases v.getLsbD 7 <;> rfl

/-- Each operation but `SWAP` is a shift by one with its own bit shifted in. -/
theorem rotResult_getLsbD (op : RotOp) (v : Byte) (cin : Bool) (k : Nat) (hk : k < 8) :
    (rotResult op v cin).getLsbD k = rotBit op v cin k := by
  cases op
  case rlc => exact shiftLeft_or_ofBool_getLsbD v (v.getLsbD 7) hk
  case rl => exact shiftLeft_or_ofBool_getLsbD v cin hk
  case sla =>
    rw [rotResult, ← BitVec.or_zero (x := v <<< 1)]
    exact shiftLeft_or_ofBool_getLsbD v false hk
  case rrc => exact ushiftRight_or_ofBool_getLsbD v (v.getLsbD 0) hk
  case rr => exact ushiftRight_or_ofBool_getLsbD v cin hk
  case sra =>
    rw [rotResult, and_80_eq]
    exact ushiftRight_or_ofBool_getLsbD v (v.getLsbD 7) hk
  case srl =>
    rw [rotResult, ← BitVec.or_zero (x := v >>> 1)]
    exact ushiftRight_or_ofBool_getLsbD v false hk
  case swap => exact swap_getLsbD v hk

theorem rotCarry_eq_rotOut (op : RotOp) (v : Byte) : rotCarry op v = rotOut op v := by
  cases op <;> rfl

theorem rot8_flags (op : RotOp) (v : Byte) (cin : Bool) :
    FlagsAre (rot8 op v cin).flags ((rot8 op v cin).r = 0) false false (rotOut op v) := by
  rw [← rotCarry_eq_rotOut]
  exact (rot8 op v cin).flagsAre

theorem rotA8_flags (op : RotOp) (v : Byte) (cin : Bool) :
    FlagsAre (rotA8 op v cin).flags false false false (rotOut op v) := by
  rw [← rotCarry_eq_rotOut]
  exact (rotA8 op v cin).flagsAre

/-! ## Which bit `RES` and `SET` write (rules R403 to R406) -/

/-- The mask of one bit. -/
theorem one_shiftLeft_getLsbD (b : BitNo) (k : Nat) : (1#8 <<< b.toNat).getLsbD k = decide (k = b.toNat) := by
  rw [← BitVec.twoPow_eq, BitVec.getLsbD_twoPow, decide_eq_true b.isLt, Bool.true_and]
  exact decide_eq_decide.mpr eq_comm

theorem resetBit_getLsbD (b : BitNo) (v : Byte) (k : Nat) (hk : k < 8) :
    (resetBit b v).getLsbD k = if k = b.toNat then false else v.getLsbD k := by
  rw [resetBit, BitVec.getLsbD_and, BitVec.getLsbD_not, one_shiftLeft_getLsbD, decide_eq_true hk]
  by_cases h : k = b.toNat <;> simp [h]

theorem setBit_getLsbD (b : BitNo) (v : Byte) (k : Nat) :
    (setBit b v).getLsbD k = if k = b.toNat then true else v.getLsbD k := by
  rw [setBit, BitVec.getLsbD_or, one_shiftLeft_getLsbD]
  by_cases h : k = b.toNat <;> simp [h]

/-! ## The rows of the rotates and shifts (rules R385 to R400) -/

theorem encoded_rotRegForm (op : RotOp) (r : Reg8) :
    Encoded [0xCB, (0b00#2 ++ op.code ++ r.code : Byte)] (rotRegForm op r) := by
  cases op <;> exact .of_encode rfl rfl

theorem exec_rotRegForm (op : RotOp) (r : Reg8) (s : State) :
    exec (rotRegForm op r) s = finish 8 (modifyR8 r (rot8 op · s.carry) s) := by
  cases op <;> rfl

theorem encoded_rotHlForm (op : RotOp) : Encoded [0xCB, (0b00#2 ++ op.code ++ 0b110#3 : Byte)] (rotHlForm op) := by
  cases op <;> exact .of_encode rfl rfl

theorem exec_rotHlForm (op : RotOp) (s : State) :
    exec (rotHlForm op) s = finish 16 (modifyHl (rot8 op · s.carry) s) := by
  cases op <;> rfl

/-! ## The steps -/

/-- The step of a one-byte rotate of A. -/
theorem finish_setAF_rotA8 (op : RotOp) (s : State) :
    ∃ t, finish 4 (s.setAF (rotA8 op s.regs.a s.carry)) = .next t ∧
      (∀ k < 8, t.regs.a.getLsbD k = rotBit op s.regs.a (flagC s.regs.f) k) ∧
      FlagsAre t.regs.f false false false (rotOut op s.regs.a) ∧ RegisterStep 4 [.a, .f] s t :=
  ⟨_, rfl, rotResult_getLsbD op s.regs.a s.carry, rotA8_flags op s.regs.a s.carry,
    setAF_registerStep 4 _ s⟩

/-- The step of an instruction that writes one register, bit by bit. -/
theorem finish_setR8_getLsbD (n : Nat) (r : Reg8) {v : Byte} {bit : Nat → Bool} (hv : ∀ k < 8, v.getLsbD k = bit k)
    (s : State) : ∃ t, finish n (s.setR8 r v) = .next t ∧ (∀ k < 8, (t.r8 r).getLsbD k = bit k) ∧
      RegisterStep n [regName r] s t := by
  obtain ⟨t, next, written, step⟩ := finish_setR8_registerStep n r v s
  exact ⟨t, next, written ▸ hv, step⟩

/-- The step of an instruction that stores one byte, bit by bit. -/
theorem finish_memWrite_getLsbD (n : Nat) (a : Word) {v : Byte} {bit : Nat → Bool}
    (hv : ∀ k < 8, v.getLsbD k = bit k) (s : State) :
    ∃ t w, finish n (memWrite s a v) = .next t ∧ (∀ k < 8, w.getLsbD k = bit k) ∧ StoresByte n [] a w s t := by
  obtain ⟨t, next, stores⟩ := finish_memWrite_storesByte n a v s
  exact ⟨t, v, next, hv, stores⟩

/-! ## The obligations -/

/-- Settles O36: the four are one step, each with its own operation. -/
theorem accumulatorRotatesMoveEveryBitAndClearZ : Obligations.AccumulatorRotatesMoveEveryBitAndClearZ := fun s =>
  ⟨⟨.of_encode rfl rfl, finish_setAF_rotA8 .rlc s⟩, ⟨.of_encode rfl rfl, finish_setAF_rotA8 .rrc s⟩,
   ⟨.of_encode rfl rfl, finish_setAF_rotA8 .rl s⟩, ⟨.of_encode rfl rfl, finish_setAF_rotA8 .rr s⟩⟩

/-- Settles O37: a read, change and write of the register, by the operation's one function. -/
theorem registerRotatesMoveEveryBit : Obligations.RegisterRotatesMoveEveryBit := by
  intro op r s
  refine ⟨encoded_rotRegForm op r, _, exec_rotRegForm op r s, ?_⟩
  have written : ((modifyR8 r (rot8 op · s.carry) s).tick 8).r8 r = (rot8 op (s.r8 r) s.carry).r :=
    r8_modifyR8_self r (rot8 op · s.carry) s
  rw [written]
  exact ⟨rotResult_getLsbD op (s.r8 r) s.carry, rot8_flags op (s.r8 r) s.carry,
    modifyR8_registerStep 8 r _ s⟩

/-- Settles O38: the same function, of the byte at HL. -/
theorem memoryRotatesMoveEveryBit : Obligations.MemoryRotatesMoveEveryBit := fun op s =>
  ⟨encoded_rotHlForm op, _, _, exec_rotHlForm op s,
    rotResult_getLsbD op (memRead s s.addrHl) s.carry, rot8_flags op (memRead s s.addrHl) s.carry,
    modifyHl_storesByte 16 (rot8 op · s.carry) s⟩

/-- Settles O39: both write F alone, by the bit tested. -/
theorem bitTestsOneBit : Obligations.BitTestsOneBit := fun _ s =>
  ⟨fun _ => ⟨.of_encode rfl rfl, _, rfl, flagsAre_mkF _ _ _ _, setF_registerStep 8 _ s⟩,
   ⟨.of_encode rfl rfl, _, rfl, flagsAre_mkF _ _ _ _, setF_registerStep 12 _ s⟩⟩

/-- Settles O40: each is one write, of a register or at HL, of the byte with the bit changed. -/
theorem resAndSetWriteOneBit : Obligations.ResAndSetWriteOneBit := fun b s =>
  ⟨fun r => ⟨.of_encode rfl rfl, finish_setR8_getLsbD 8 r (resetBit_getLsbD b (s.r8 r)) s⟩,
   ⟨.of_encode rfl rfl, finish_memWrite_getLsbD 16 s.addrHl (resetBit_getLsbD b (memRead s s.addrHl)) s⟩,
   fun r => ⟨.of_encode rfl rfl, finish_setR8_getLsbD 8 r (fun k _ => setBit_getLsbD b (s.r8 r) k) s⟩,
   ⟨.of_encode rfl rfl, finish_memWrite_getLsbD 16 s.addrHl (fun k _ => setBit_getLsbD b (memRead s s.addrHl) k) s⟩⟩

end Sys2Proof.Machine
end

section
/-! The control transfers (`45_control.md`): the step of a write of PC, of a call and of a return, and the two outcomes
of a conditional instruction. -/

namespace Sys2Proof.Machine

theorem KeepsRegs.setPc {changed : List RegName} {s t : State} (h : KeepsRegs changed s t) (hpc : .pc ∈ changed)
    (v : Word) : KeepsRegs changed s (t.setPc v) := by
  intro q hq
  rw [← h q hq]
  cases q
  case pc => exact absurd hpc hq
  all_goals rfl

/-! ## The targets -/

/-- The target of a relative jump, on integers and wrapped (rule R433). -/
theorem jrTarget_toNat (pc : Word) (e : Byte) : ((jrTarget pc e).toNat : Int) = (pc.toNat + e.toInt) % 65536 :=
  add_signExtend_toNat pc e

/-- Eight times the field stays below 65536 (`30_encoding.md` rule R209). -/
theorem rstTarget_toNat (y : RstNo) : (rstTarget y).toNat = 8 * y.toNat := by
  revert y
  decide

/-! ## The steps -/

/-- The step of an instruction that only takes its time, such as a conditional one that is not taken. -/
theorem finish_registerStep (n : Nat) (s : State) : ∃ t, finish n s = .next t ∧ RegisterStep n [] s t :=
  ⟨_, rfl, registerStep_tick .refl⟩

theorem finish_setPc_registerStep (n : Nat) (v : Word) (s : State) :
    ∃ t, finish n (s.setPc v) = .next t ∧ t.regs.pc = v ∧ RegisterStep n [.pc] s t :=
  ⟨_, rfl, rfl, registerStep_tick (KeepsRegs.refl.setPc (List.mem_singleton_self _) v)⟩

/-- The step of a relative jump that is taken, with the number that PC becomes. -/
theorem finish_setPc_jrTarget_registerStep (n : Nat) (e : Byte) (s : State) :
    ∃ t, finish n (s.setPc (jrTarget s.regs.pc e)) = .next t ∧
      (t.regs.pc.toNat : Int) = (s.regs.pc.toNat + e.toInt) % 65536 ∧ RegisterStep n [.pc] s t := by
  obtain ⟨t, next, pc, step⟩ := finish_setPc_registerStep n (jrTarget s.regs.pc e) s
  exact ⟨t, next, pc ▸ jrTarget_toNat s.regs.pc e, step⟩

/-- The word pushed is PC from before its load (rule R435). -/
theorem finish_callTo_pushes (n : Nat) (target : Word) (s : State) :
    ∃ t, finish n (callTo target s) = .next t ∧ t.regs.pc = target ∧ Pushes n [.pc] s.regs.pc s t := by
  have regs : KeepsRegs [.sp, .pc] s (((pushed s s.regs.pc).setSp (s.regs.sp - 2)).setPc target) :=
    ((KeepsRegs.refl.pushed s.regs.pc).setSp List.mem_cons_self _).setPc (by decide) target
  rw [callTo, push16_eq_pushed]
  exact ⟨_, rfl, rfl, pushes_tick regs rfl rfl⟩

theorem KeepsRegs.returnPop {changed : List RegName} {s t : State} (h : KeepsRegs changed s t) (hpc : .pc ∈ changed)
    (hsp : .sp ∈ changed) : KeepsRegs changed s (returnPop t) := (h.setSp hsp _).setPc hpc _

theorem finish_returnPop_registerStep (n : Nat) (s : State) :
    ∃ t, finish n (returnPop s) = .next t ∧
      (t.regs.pc = wordOf (memRead s (s.regs.sp + 1)) (memRead s s.regs.sp) ∧ t.regs.sp = s.regs.sp + 2) ∧
      RegisterStep n [.pc, .sp] s t :=
  ⟨_, rfl, ⟨rfl, rfl⟩, registerStep_tick (KeepsRegs.refl.returnPop (by decide) (by decide))⟩

/-- A conditional instruction completes where both its outcomes do, each with its own effect. -/
theorem exists_next_ite {c : Prop} [Decidable c] {o p : Host.Outcome State Fault Refusal} {A B : State → Prop}
    (ho : ∃ t, o = .next t ∧ A t) (hp : ∃ t, p = .next t ∧ B t) :
    ∃ t, (if c then o else p) = .next t ∧ if c then A t else B t := by
  split
  · exact ho
  · exact hp

/-! ## The obligations -/

/-- Settles O41: a jump taken is one write of PC, and one not taken is none. -/
theorem jumpsLoadPcWhenTheirConditionHolds : Obligations.JumpsLoadPcWhenTheirConditionHolds := by
  refine ⟨fun f => ⟨rfl, rfl, rfl, rfl⟩, fun s => ⟨fun nn => ?jp, fun cc nn => ?jpCc, ?jpHl, fun e => ?jr,
    fun cc e => ?jrCc⟩⟩
  case jp => exact ⟨.of_encode rfl rfl, finish_setPc_registerStep 16 nn s⟩
  case jpCc =>
    exact ⟨.of_encode rfl rfl, exists_next_ite (finish_setPc_registerStep 16 nn s) (finish_registerStep 12 s)⟩
  case jpHl => exact ⟨.of_encode rfl rfl, finish_setPc_registerStep 4 s.addrHl s⟩
  case jr => exact ⟨.of_encode rfl rfl, finish_setPc_jrTarget_registerStep 12 e s⟩
  case jrCc =>
    exact ⟨.of_encode rfl rfl,
      exists_next_ite (finish_setPc_jrTarget_registerStep 12 e s) (finish_registerStep 8 s)⟩

/-- Settles O42: a call is one push and one write of PC, and one not taken is neither. -/
theorem callsPushPcAndLoadIt : Obligations.CallsPushPcAndLoadIt := by
  refine fun s => ⟨fun nn => ?call, fun cc nn => ?callCc, fun y => ?rst⟩
  case call => exact ⟨.of_encode rfl rfl, finish_callTo_pushes 24 nn s⟩
  case callCc =>
    exact ⟨.of_encode rfl rfl, exists_next_ite (finish_callTo_pushes 24 nn s) (finish_registerStep 12 s)⟩
  case rst =>
    obtain ⟨t, next, pc, pushes⟩ := finish_callTo_pushes 16 (rstTarget y) s
    exact ⟨.of_encode rfl rfl, t, next, pc ▸ rstTarget_toNat y, pushes⟩

/-- Settles O43: a return is one write of SP and one of PC; RETI writes IME after them. -/
theorem returnsPopPc : Obligations.ReturnsPopPc := by
  refine fun s => ⟨?ret, fun cc => ?retCc, ?reti⟩
  case ret => exact ⟨.of_encode rfl rfl, finish_returnPop_registerStep 16 s⟩
  case retCc =>
    exact ⟨.of_encode rfl rfl, exists_next_ite (finish_returnPop_registerStep 20 s) (finish_registerStep 8 s)⟩
  case reti =>
    have regs : KeepsRegs [.pc, .sp] s (returnPop s) := KeepsRegs.refl.returnPop (by decide) (by decide)
    have bus : SameBus s ((returnFromInterrupt s).tick 16) :=
      ⟨rfl, rfl, rfl, rfl, rfl, rfl, rfl, rfl, rfl, rfl, fun _ => rfl⟩
    exact ⟨.of_encode rfl rfl, _, rfl, ⟨rfl, rfl⟩, rfl, rfl, rfl, regs, bus, ⟨rfl, rfl⟩⟩

end Sys2Proof.Machine
end

section
/-! The system instructions and the undefined bytes (`46_system.md`): the step of an instruction that writes the interrupt
enables and the run state only, what an undefined first byte raises, and what each instruction does to a pending `EI`. -/

namespace Sys2Proof.Machine

/-! ## The steps that leave the Bus side alone -/

section
variable {s t : State}

/-- What changes on the CPU's side only leaves the Bus side as it was. -/
theorem sameBus_of_cpu_side
    (h : t = { s with
      regs := t.regs, ime := t.ime, eiPending := t.eiPending, run := t.run, cycles := t.cycles, report := t.report } :=
      by rfl) : SameBus s t := by
  rw [h]
  exact ⟨rfl, rfl, rfl, rfl, rfl, rfl, rfl, rfl, rfl, rfl, fun _ => rfl⟩

/-- An instruction that writes only the enables and the run state changes no register and nothing on the Bus side. -/
theorem quiet_tick {n : Nat} (h : t = ((s.setIme t.ime).setEiPending t.eiPending).setRun t.run := by rfl) :
    KeepsRegs [] s (t.tick n) ∧ SameBus s (t.tick n) ∧ Took n s (t.tick n) := by
  rw [h]
  exact ⟨fun _ _ => rfl, sameBus_of_cpu_side, rfl, rfl⟩

end

/-- Settles O44: each is one or two writes of the run state and of the enables. -/
theorem systemInstructionsSetTheRunStateAndTheEnables : Obligations.SystemInstructionsSetTheRunStateAndTheEnables := by
  refine fun s => ⟨?nop, ?halt, fun pad => ?stop, ?di, ?ei⟩
  case nop => exact ⟨.of_encode rfl rfl, finish_registerStep 4 s⟩
  case halt => exact ⟨.of_encode rfl rfl, _, rfl, rfl, rfl, rfl, quiet_tick⟩
  case stop => exact ⟨.of_encode rfl rfl, _, rfl, rfl, rfl, rfl, quiet_tick⟩
  case di => exact ⟨.of_encode rfl rfl, _, rfl, rfl, rfl, rfl, quiet_tick⟩
  case ei => exact ⟨.of_encode rfl rfl, _, rfl, rfl, rfl, rfl, quiet_tick⟩

/-! ## The undefined first bytes (rule R466) -/

theorem mem_undefinedRows_of_undefinedByte? {i : Instr} {v : Byte} (h : i.undefinedByte? = some v) :
    (v, i) ∈ undefinedRows := by
  unfold Instr.undefinedByte? at h
  split at h
  case h_12 => cases h
  all_goals
    obtain rfl := Option.some.inj h
    decide

theorem exec_of_undefinedByte? {i : Instr} {v : Byte} (h : i.undefinedByte? = some v) (s : State) :
    exec i s = raiseIllegal v s := by
  unfold Instr.undefinedByte? at h
  split at h
  case h_12 => cases h
  all_goals
    obtain rfl := Option.some.inj h
    rfl

theorem encoded_of_mem_undefinedRows {row : Byte × Instr} (h : row ∈ undefinedRows) : Encoded [row.1] row.2 := by
  have table : ∀ row ∈ undefinedRows, row.2.wellFormed = true ∧ encode row.2 = [row.1] := by decide
  obtain ⟨wellFormed, bytes⟩ := table row h
  exact .of_encode wellFormed bytes

theorem finish_reports_cycles {n : Nat} {u t : State} (h : finish n u = .next t) : ∃ k, t.report = .cycles k := by
  obtain rfl := (finish_next n u t).mp h
  exact ⟨n, rfl⟩

/-- Every row but an undefined one ends in `finish`. -/
theorem exec_reports_cycles {i : Instr} (hi : i.wellFormed = true) (hdef : i.undefinedByte? = none) {s t : State}
    (h : exec i s = .next t) : ∃ n, t.report = .cycles n := by
  cases i
  case prefixCb => cases hi
  case illegalD3 | illegalDB | illegalDD | illegalE3 | illegalE4 | illegalEB | illegalEC | illegalED | illegalF4
    | illegalFC | illegalFD => cases hdef
  case jpCcNn | jrCcE | retCc | callCcNn => exact next_ite h finish_reports_cycles finish_reports_cycles
  all_goals exact finish_reports_cycles h

/-- The table of rule R466 holds the first byte of every undefined row that the decoder yields. -/
theorem undefinedByte?_decodeBytes_eq_none {op : Byte} (h : ∀ row ∈ undefinedRows, row.1 ≠ op) (b1 b2 : Byte) :
    (decodeBytes op b1 b2).undefinedByte? = none := by
  rw [Option.eq_none_iff_forall_ne_some]
  intro v hv
  exact h _ (mem_undefinedRows_of_undefinedByte? hv) (undefinedByte?_decodeBytes hv).symm

/-- Settles O45: an undefined row raises the condition with its own byte, and a row with another first byte ends in
`finish`. -/
theorem undefinedFirstBytesRaiseTheFatalCondition : Obligations.UndefinedFirstBytesRaiseTheFatalCondition := by
  constructor
  · intro row mem
    refine ⟨encoded_of_mem_undefinedRows mem, fun s => ?_⟩
    rw [exec_of_undefinedByte? (undefinedByte?_of_mem mem)]
    have regs : KeepsRegs [.pc] s (s.setPc (s.regs.pc - 1)) := KeepsRegs.refl.setPc (List.mem_singleton_self _) _
    exact ⟨_, rfl, rfl, rfl, rfl, rfl, rfl, rfl, regs, sameBus_of_cpu_side⟩
  · intro op b1 b2 s t hop h
    exact exec_reports_cycles (decodeBytes_wellFormed op b1 b2) (undefinedByte?_decodeBytes_eq_none hop b1 b2) h

/-! ## What an instruction does to a pending `EI` -/

@[simp] theorem push16_eiPending (s : State) (v : Word) : (push16 s v).eiPending = s.eiPending := by simp [push16_eq]

@[simp] theorem callTo_eiPending (w : Word) (s : State) : (callTo w s).eiPending = s.eiPending := by simp [callTo]

@[simp] theorem modifyHl_eiPending (f : Byte → AluResult) (s : State) : (modifyHl f s).eiPending = s.eiPending :=
  memWrite_eiPending _ _ _

theorem finish_keeps_eiPending {s t u : State} {n : Nat} (h : finish n u = .next t) (hu : u.eiPending = s.eiPending) :
    t.eiPending = s.eiPending := by
  obtain rfl := (finish_next n u t).mp h
  exact hu

theorem raiseIllegal_keeps_eiPending {op : Byte} {s t : State} (h : raiseIllegal op s = .next t) :
    t.eiPending = s.eiPending := by
  obtain rfl := (raiseIllegal_next op s t).mp h
  rfl

theorem exec_keeps_eiPending {i : Instr} (hi : i.wellFormed = true) (hdi : i ≠ .di) (hei : i ≠ .ei) {s t : State}
    (h : exec i s = .next t) : t.eiPending = s.eiPending := by
  cases i
  case prefixCb => cases hi
  case di => exact absurd rfl hdi
  case ei => exact absurd rfl hei
  case illegalD3 | illegalDB | illegalDD | illegalE3 | illegalE4 | illegalEB | illegalEC | illegalED | illegalF4
    | illegalFC | illegalFD => exact raiseIllegal_keeps_eiPending h
  case jpCcNn | jrCcE | retCc => exact next_ite h (finish_keeps_eiPending · rfl) (finish_keeps_eiPending · rfl)
  case callCcNn =>
    exact next_ite h (finish_keeps_eiPending · (callTo_eiPending _ _)) (finish_keeps_eiPending · rfl)
  case callNn | rst => exact finish_keeps_eiPending h (callTo_eiPending _ _)
  case pushRr | pushAf => exact finish_keeps_eiPending h (push16_eiPending _ _)
  case incHl | decHl | rlcHl | rrcHl | rlHl | rrHl | slaHl | sraHl | swapHl | srlHl =>
    exact finish_keeps_eiPending h (modifyHl_eiPending _ _)
  case ldHlR | ldHlN | ldBcA | ldDeA | ldNnA | ldhCA | ldhNA | ldHlDecA | ldHlIncA | resHl | setHl =>
    exact finish_keeps_eiPending h (memWrite_eiPending _ _ _)
  case ldNnSp =>
    exact finish_keeps_eiPending h ((memWrite_eiPending _ _ _).trans (memWrite_eiPending _ _ _))
  all_goals exact finish_keeps_eiPending h rfl

/-- With no `EI` pending, one is pending after an instruction where the instruction was `EI`. -/
theorem exec_eiPending_of_not_pending {i : Instr} (hi : i.wellFormed = true) {s t : State}
    (hs : s.eiPending = false) (h : exec i s = .next t) : t.eiPending = decide (i = .ei) := by
  by_cases hei : i = .ei
  · subst hei
    obtain rfl := (finish_next _ _ _).mp h
    rfl
  rw [decide_eq_false hei]
  by_cases hdi : i = .di
  · subst hdi
    obtain rfl := (finish_next _ _ _).mp h
    rfl
  · exact (exec_keeps_eiPending hi hdi hei h).trans hs

/-- With IME set, only `DI` leaves it clear. -/
theorem exec_ime_of_ime {i : Instr} (hi : i.wellFormed = true) {s t : State} (hs : s.ime = true)
    (h : exec i s = .next t) : t.ime = !decide (i = .di) := by
  by_cases hdi : i = .di
  · subst hdi
    obtain rfl := (finish_next _ _ _).mp h
    rfl
  rw [decide_eq_false hdi]
  rcases (exec_control hi h).ime_cases with keeps | ⟨-, raised⟩ | ⟨di, -⟩
  · exact keeps.trans hs
  · exact raised
  · exact absurd di hdi

/-! ## The step of `EI` and the one after it (rule R464) -/

@[simp] theorem promoteEi_eiPending (s : State) : (promoteEi s).eiPending = false := by
  unfold promoteEi
  split
  · rfl
  · exact Bool.eq_false_iff.mpr ‹_›

theorem irqToTake_eq_none_of_ime {s : State} (h : s.ime = false) : irqToTake s = none := by
  rw [irqToTake, h]
  rfl

theorem fetchedInstr_eq_ei {s : State} (h : memRead s s.regs.pc = 0xFB) : fetchedInstr s = .ei := by
  rw [fetchedInstr, h]
  rfl

theorem step_of_cpuStep {s t : State} (h : cpuStep s = .next t) : step s = .next (advanceDevices t) := by
  rw [step, iteration, h]

/-- The CPU's state after `EI`: past it, an earlier one promoted, itself pending. -/
theorem cpuStep_of_ei {s : State} (hr : s.run = .running) (hq : irqToTake s = none) (hi : fetchedInstr s = .ei) :
    cpuStep s = .next ((((promoteEi s).setPc (s.regs.pc + 1)).setEiPending true).tick 4) := by
  rw [cpuStep_of_running_of_none hr hq, hi]
  rfl

/-- A step with an `EI` pending runs its instruction with IME set and none pending. -/
theorem step_enables_of_eiPending {s t : State} (hr : s.run = .running) (hq : irqToTake s = none)
    (hp : s.eiPending = true) (h : step s = .next t) :
    t.ime = !decide (fetchedInstr s = .di) ∧ t.eiPending = decide (fetchedInstr s = .ei) := by
  obtain ⟨u, e, rfl⟩ := step_cases h
  rw [cpuStep_of_running_of_none hr hq] at e
  have wellFormed := fetchedInstr_wellFormed s
  rw [advanceDevices_ime, advanceDevices_eiPending]
  exact ⟨exec_ime_of_ime wellFormed (by simp [promoteEi_ime, hp]) e,
    exec_eiPending_of_not_pending wellFormed (by simp) e⟩

/-- Settles O9: the step of `EI` promotes an earlier one and leaves its own pending, and the next step promotes that one
before its instruction runs. -/
theorem eiTakesEffectOneInstructionLate : Obligations.EiTakesEffectOneInstructionLate := by
  intro s hr hq hbyte
  have next := step_of_cpuStep (cpuStep_of_ei hr hq (fetchedInstr_eq_ei hbyte))
  generalize ht : advanceDevices _ = t at next
  have regs : t.regs = { s.regs with pc := s.regs.pc + 1 } := by simp [← ht]
  have keeps : KeepsRegs [.pc] s t := by
    have moved : KeepsRegs [.pc] s (s.setPc (s.regs.pc + 1)) := KeepsRegs.refl.setPc (List.mem_singleton_self _) _
    intro r hr
    rw [regs]
    exact moved r hr
  have run : t.run = .running := by simp [← ht, hr]
  have ime : t.ime = (s.ime || s.eiPending) := by simp [← ht, promoteEi_ime]
  have pending : t.eiPending = true := by simp [← ht]
  have report : t.report = .cycles 4 := by simp [← ht]
  exact ⟨t, next, congrArg Regs.pc regs, keeps, run, ime, pending, report,
    fun low => irqToTake_eq_none_of_ime (ime.trans low), fun hnone _ => step_enables_of_eiPending run hnone pending⟩

end Sys2Proof.Machine
end

section
/-! The exceptions family, the steps: which request a dispatch takes and what it changes, and that every step completes
unless the machine is faulted. -/

namespace Sys2Proof.Machine

/-! ## The request that is taken (`60_exceptions.md` rules R509, R512) -/

theorem exists_irq_of_lt {i : Nat} (hi : i < 5) : ∃ q : Irq, q.bit = i := by
  interval_cases i
  exacts [⟨.vBlank, rfl⟩, ⟨.lcdStatus, rfl⟩, ⟨.timer, rfl⟩, ⟨.serial, rfl⟩, ⟨.joypad, rfl⟩]

theorem Irq.bit_lt (q : Irq) : q.bit < 5 := by
  cases q <;> decide

/-- The source whose bit is set, with every lower bit clear, has the highest priority. -/
theorem highestPriority_eq_some {p : BitVec 5} {q : Irq} (hset : p.getLsbD q.bit = true)
    (hlow : ∀ j < q.bit, p.getLsbD j = false) : highestPriority p = some q := by
  have low : ∀ j < q.bit, ¬ p.getLsbD j = true := fun j hj => Bool.eq_false_iff.mp (hlow j hj)
  cases q
  case vBlank => exact if_pos hset
  case lcdStatus => exact (if_neg (low 0 (by decide))).trans (if_pos hset)
  case timer =>
    exact (if_neg (low 0 (by decide))).trans ((if_neg (low 1 (by decide))).trans (if_pos hset))
  case serial =>
    exact (if_neg (low 0 (by decide))).trans ((if_neg (low 1 (by decide))).trans
      ((if_neg (low 2 (by decide))).trans (if_pos hset)))
  case joypad =>
    exact (if_neg (low 0 (by decide))).trans ((if_neg (low 1 (by decide))).trans
      ((if_neg (low 2 (by decide))).trans ((if_neg (low 3 (by decide))).trans (if_pos hset))))

/-- With IME set, the lowest-numbered source that is both enabled and requested is the one to take. -/
theorem irqToTake_eq_some {s : State} {q : Irq} (hime : s.ime = true)
    (hset : (s.ie.getLsbD q.bit && s.ifReg.getLsbD q.bit) = true)
    (hlow : ∀ j < q.bit, (s.ie.getLsbD j && s.ifReg.getLsbD j) = false) : irqToTake s = some q := by
  rw [irqToTake, if_pos hime]
  refine highestPriority_eq_some ?_ fun j hj => ?_
  · rw [s.pending_getLsbD q.bit_lt, hset]
  · rw [s.pending_getLsbD (hj.trans q.bit_lt), hlow j hj]

theorem Irq.vector_toNat (q : Irq) : q.vector.toNat = 0x0040 + 8 * q.bit := by
  cases q <;> rfl

/-- The mask of a source has its bit only. -/
theorem irqMask_getLsbD (q : Irq) (j : Nat) : (1#5 <<< q.bit).getLsbD j = (j == q.bit) := by
  by_cases hj : j < 5
  · cases q <;> interval_cases j <;> rfl
  · have hne : j ≠ q.bit := fun e => hj (e ▸ q.bit_lt)
    rw [BitVec.getLsbD_of_ge _ _ (Nat.not_lt.mp hj), beq_eq_false_iff_ne.mpr hne]

/-! ## The dispatch (rule R510) -/

/-- `s` with the IF bit of `q` cleared. -/
def acknowledge (q : Irq) (s : State) : State := { s with ifReg := s.ifReg &&& ~~~(1#5 <<< q.bit) }

theorem acknowledge_getLsbD (q : Irq) (s : State) {j : Nat} (hj : j < 5) :
    (acknowledge q s).ifReg.getLsbD j = (s.ifReg.getLsbD j && j != q.bit) := by
  rw [acknowledge, BitVec.getLsbD_and, BitVec.getLsbD_not, irqMask_getLsbD, decide_eq_true hj, Bool.true_and]
  rfl

theorem dispatchIrq_eq_pushed (q : Irq) (s : State) :
    dispatchIrq q s =
      (((((pushed (acknowledge q s) s.regs.pc).setSp (s.regs.sp - 2)).setIme false).setEiPending false).setPc
        q.vector).tick dispatchCycles := by
  rw [dispatchIrq_eq, push16_eq_pushed]
  rfl

/-- The stores of a dispatch do not look at the run state. -/
theorem dispatchIrq_setRun (q : Irq) (s : State) (r : RunState) :
    dispatchIrq q (s.setRun r) = (dispatchIrq q s).setRun r := by
  rw [dispatchIrq_eq, dispatchIrq_eq]
  exact congrArg (fun u => (((u.setIme false).setEiPending false).setPc q.vector).tick dispatchCycles)
    (push16_setRun (acknowledge q s) r s.regs.pc)

/-- An awake machine with a request to take dispatches it, running. -/
theorem cpuStep_of_irq {s : State} {q : Irq} (hw : Awake s) (hq : irqToTake s = some q) :
    cpuStep s = .next ((dispatchIrq q s).setRun .running) := by
  have dispatch : dispatchOrExecute (s.setRun .running) = .next ((dispatchIrq q s).setRun .running) := by
    have taken : irqToTake (s.setRun .running) = some q := hq
    rw [dispatchOrExecute, taken]
    exact congrArg Host.Outcome.next (dispatchIrq_setRun q s .running)
  rcases hw with hr | ⟨hr, hp⟩
  · rw [cpuStep_of_running hr, ← dispatch, State.setRun_self hr]
  · rw [cpuStep_of_halted hr, if_neg hp, dispatch]

theorem dispatchIrq_pushFrame (q : Irq) (s : State) : PushFrame (acknowledge q s) s.regs.pc (dispatchIrq q s) := by
  intro b h h'
  simp only [dispatchIrq_eq_pushed, memRead_tick, memRead_setPc, memRead_setEiPending, memRead_setIme, memRead_setSp]
  exact memRead_memWrite_twice_of_not_mayChange h h' (loByte s.regs.pc)

theorem dispatchIrq_keepsRegs (q : Irq) (s : State) : KeepsRegs [.pc, .sp] s (dispatchIrq q s) := by
  rw [dispatchIrq_eq_pushed]
  have push : KeepsRegs [.pc, .sp] s ((pushed (acknowledge q s) s.regs.pc).setSp (s.regs.sp - 2)) :=
    (KeepsRegs.pushed (t := acknowledge q s) (fun _ _ => rfl) s.regs.pc).setSp (by decide) _
  exact push.setPc (by decide) q.vector

theorem dispatchIrq_sameBus (q : Irq) (s : State) :
    SameBus (pushed (acknowledge q s) s.regs.pc) (dispatchIrq q s) := by
  rw [dispatchIrq_eq_pushed]
  exact sameBus_of_cpu_side

theorem dispatchIrq_took (q : Irq) (s : State) : Took 20 s (dispatchIrq q s) := by
  have stores : (pushed (acknowledge q s) s.regs.pc).cycles = s.cycles :=
    (memWrite_cycles _ _ _).trans (memWrite_cycles _ _ _)
  rw [dispatchIrq_eq_pushed]
  exact ⟨congrArg (· + dispatchCycles) stores, rfl⟩

theorem dispatchIrq_pc (q : Irq) (s : State) : (dispatchIrq q s).regs.pc = q.vector := by
  rw [dispatchIrq_eq_pushed]
  rfl

theorem dispatchIrq_sp (q : Irq) (s : State) : (dispatchIrq q s).regs.sp = s.regs.sp - 2 := by
  rw [dispatchIrq_eq_pushed]
  rfl

@[simp] theorem dispatchIrq_eiPending (q : Irq) (s : State) : (dispatchIrq q s).eiPending = false := by
  simp [dispatchIrq_eq]

/-- The run state is not on the Bus side. -/
theorem SameBus.setRun {s t : State} (h : SameBus s t) (r : RunState) : SameBus s (t.setRun r) :=
  ⟨h.params, h.ifReg, h.ie, h.timer, h.lcd, h.ppu, h.ram, h.cart, h.mbc, h.driver, h.bytes⟩

theorem advanceDevices_of_cycles {s : State} {n : Nat} (h : s.report = .cycles n) :
    advanceDevices s = ppuAdvance n (timerAdvance n s) := by
  rw [advanceDevices, h]

/-- Settles O6: the enabled request wakes a halted machine, its source is the one to take, and the dispatch clears its bit
and pushes PC. -/
theorem theLowestNumberedEnabledRequestIsDispatched : Obligations.TheLowestNumberedEnabledRequestIsDispatched := by
  intro s i hi hrun hime hie hif hlow
  obtain ⟨q, rfl⟩ := exists_irq_of_lt hi
  have hset : (s.ie.getLsbD q.bit && s.ifReg.getLsbD q.bit) = true := by rw [hie, hif]; rfl
  have awake : Awake s := hrun.imp_right fun halted =>
    ⟨halted, fun none => by simp [s.pending_eq_zero_iff.mp none q.bit hi] at hset⟩
  have next := cpuStep_of_irq awake (irqToTake_eq_some hime hset hlow)
  have pc : (dispatchIrq q s).regs.pc.toNat = 0x0040 + 8 * q.bit := by rw [dispatchIrq_pc, q.vector_toNat]
  have frame := dispatchIrq_pushFrame q s
  have took := dispatchIrq_took q s
  have regs := dispatchIrq_keepsRegs q s
  have bus := dispatchIrq_sameBus q s
  have sp := dispatchIrq_sp q s
  have ime := dispatchIrq_ime q s
  have ei := dispatchIrq_eiPending q s
  generalize dispatchIrq q s = u at next pc frame took regs bus sp ime ei
  have devices : advanceDevices (u.setRun .running) = ppuAdvance 20 (timerAdvance 20 (u.setRun .running)) :=
    advanceDevices_of_cycles took.report
  exact ⟨acknowledge q s, u.setRun .running, rfl, fun j hj => acknowledge_getLsbD q s hj, next,
    devices ▸ step_of_cpuStep next, pc, sp, regs, ime, ei, rfl, bus.setRun .running, frame, took.cycles, took.report⟩

/-! ## Every step completes (rules R500 to R502) -/

theorem exec_completes_of_wellFormed {i : Instr} (hi : i.wellFormed = true) (s : State) :
    ∃ t, exec i s = .next t := by
  rcases exec_finishes_or_raises hi s with ⟨n, u, e, -, -⟩ | ⟨op, e⟩ <;> rw [e]
  · exact ⟨_, rfl⟩
  · exact ⟨_, rfl⟩

/-- The row of the byte 0xCB, which no decoder yields, completes as the row that its second byte selects (rule R465). -/
theorem exec_completes (i : Instr) (s : State) : ∃ t, exec i s = .next t := by
  cases hi : i.wellFormed with
  | true => exact exec_completes_of_wellFormed hi s
  | false =>
    cases i
    case prefixCb op2 =>
      rw [exec_prefixCb]
      exact exec_completes_of_wellFormed (decodeCb_wellFormed op2) s
    all_goals cases hi

theorem dispatchOrExecute_completes (s : State) : ∃ t, dispatchOrExecute s = .next t := by
  unfold dispatchOrExecute
  split
  · exact ⟨_, rfl⟩
  · exact exec_completes _ _

/-- A CPU step completes in every run state but FAULTED (rule R505). -/
theorem cpuStep_completes {s : State} (h : ∀ opcode pc, s.run ≠ .faulted opcode pc) : ∃ t, cpuStep s = .next t := by
  unfold cpuStep
  split
  case h_1 opcode pc hr => exact absurd hr (h opcode pc)
  case h_2 => exact ⟨_, rfl⟩
  case h_3 =>
    split
    · exact ⟨_, rfl⟩
    · exact dispatchOrExecute_completes _
  case h_4 => exact dispatchOrExecute_completes s

theorem step_of_faulted {s : State} {opcode : Byte} {pc : Word} (h : s.run = .faulted opcode pc) :
    step s = .fault (.illegalInstruction opcode pc) := by
  rw [step, iteration, cpuStep, h]

theorem step_completes_or_faulted (s : State) :
    (∃ t, step s = .next t) ∨
      ∃ opcode pc, s.run = .faulted opcode pc ∧ step s = .fault (.illegalInstruction opcode pc) := by
  by_cases h : ∃ opcode pc, s.run = .faulted opcode pc
  · obtain ⟨opcode, pc, hr⟩ := h
    exact .inr ⟨opcode, pc, hr, step_of_faulted hr⟩
  · push Not at h
    obtain ⟨t, e⟩ := cpuStep_completes h
    exact .inl ⟨_, step_of_cpuStep e⟩

/-- Settles O10: an instruction ends in `finish` or in the fatal condition, both of them a next state, and so a step that
is not a faulted report completes. -/
theorem everyStepCompletesUnlessFaulted : Obligations.EveryStepCompletesUnlessFaulted :=
  ⟨exec_completes, step_completes_or_faulted⟩

end Sys2Proof.Machine
end

section
/-! The exceptions family, the timer: the periods that SYS passes, and what TIMA and IF are after a number of
increments. -/

namespace Sys2Proof.Machine

/-! ## The period (`60_exceptions.md` rule R541) -/

theorem timerPeriod_eq (tac : BitVec 3) :
    timerPeriod tac = match tac.toNat % 4 with | 0 => 1024 | 1 => 16 | 2 => 64 | _ => 256 := by
  revert tac
  decide

theorem timerPeriod_dvd (tac : BitVec 3) : timerPeriod tac ∣ 65536 := by
  revert tac
  decide

/-- The number of multiples of the period up to the next cycle. -/
theorem passed_succ (sys n period : Nat) :
    (sys + (n + 1)) / period - sys / period =
      if (sys + (n + 1)) % period = 0 then (sys + n) / period - sys / period + 1
      else (sys + n) / period - sys / period := by
  have mono : sys / period ≤ (sys + n) / period := Nat.div_le_div_right (Nat.le_add_right sys n)
  rw [← Nat.add_assoc, Nat.succ_div]
  simp only [Nat.dvd_iff_mod_eq_zero]
  split <;> omega

/-! ## One cycle (rules R540, R541) -/

theorem timaIncrement_of_full {s : State} (h : s.timer.tima = 0xFF) :
    timaIncrement s = ({ s with timer.tima := s.timer.tma }).request .timer := if_pos h

theorem timaIncrement_of_not_full {s : State} (h : s.timer.tima ≠ 0xFF) :
    timaIncrement s = { s with timer.tima := s.timer.tima + 1 } := if_neg h

@[simp] theorem timaIncrement_sys (s : State) : (timaIncrement s).timer.sys = s.timer.sys := by
  unfold timaIncrement
  split <;> rfl

@[simp] theorem timaIncrement_tma (s : State) : (timaIncrement s).timer.tma = s.timer.tma := by
  unfold timaIncrement
  split <;> rfl

@[simp] theorem timaIncrement_tac (s : State) : (timaIncrement s).timer.tac = s.timer.tac := by
  unfold timaIncrement
  split <;> rfl

/-- The cycle counted, before TIMA's increment. -/
def countCycle (s : State) : State := { s with timer.sys := s.timer.sys + 1 }

theorem countCycle_sys_toNat (s : State) : (countCycle s).timer.sys.toNat = (s.timer.sys.toNat + 1) % 65536 :=
  BitVec.toNat_add _ _

/-- A cycle increments TIMA where the timer is enabled and SYS has come to a multiple of the period. -/
theorem timerCycle_eq_ite (s : State) :
    timerCycle s =
      if s.timer.tac.getLsbD 2 = true ∧ (s.timer.sys.toNat + 1) % timerPeriod s.timer.tac = 0 then
        timaIncrement (countCycle s)
      else countCycle s := by
  have multiple : (countCycle s).timer.sys.toNat % timerPeriod s.timer.tac =
      (s.timer.sys.toNat + 1) % timerPeriod s.timer.tac := by
    rw [countCycle_sys_toNat, Nat.mod_mod_of_dvd _ (timerPeriod_dvd _)]
  rw [← multiple]
  simp only [timerCycle, Bool.and_eq_true, beq_iff_eq]
  rfl

@[simp] theorem timerCycle_sys (s : State) : (timerCycle s).timer.sys = s.timer.sys + 1 := by
  rw [timerCycle_eq_ite]
  split
  · exact timaIncrement_sys _
  · rfl

@[simp] theorem timerCycle_tma (s : State) : (timerCycle s).timer.tma = s.timer.tma := by
  rw [timerCycle_eq_ite]
  split
  · exact timaIncrement_tma _
  · rfl

@[simp] theorem timerCycle_tac (s : State) : (timerCycle s).timer.tac = s.timer.tac := by
  rw [timerCycle_eq_ite]
  split
  · exact timaIncrement_tac _
  · rfl

/-! ## Any number of cycles -/

theorem timerAdvance_succ (n : Nat) (s : State) : timerAdvance (n + 1) s = timerCycle (timerAdvance n s) := by
  induction n generalizing s with
  | zero => rfl
  | succ n ih => rw [timerAdvance, ih, ← timerAdvance]

@[simp] theorem timerAdvance_tma (n : Nat) (s : State) : (timerAdvance n s).timer.tma = s.timer.tma := by
  induction n with
  | zero => rfl
  | succ n ih => rw [timerAdvance_succ, timerCycle_tma, ih]

@[simp] theorem timerAdvance_tac (n : Nat) (s : State) : (timerAdvance n s).timer.tac = s.timer.tac := by
  induction n with
  | zero => rfl
  | succ n ih => rw [timerAdvance_succ, timerCycle_tac, ih]

theorem timerAdvance_sys_toNat (n : Nat) (s : State) :
    (timerAdvance n s).timer.sys.toNat = (s.timer.sys.toNat + n) % 65536 := by
  induction n with
  | zero => exact (Nat.mod_eq_of_lt s.timer.sys.isLt).symm
  | succ n ih =>
    rw [timerAdvance_succ, timerCycle_sys, BitVec.toNat_add, ih]
    exact Nat.mod_add_mod _ _ _

/-- A disabled timer counts SYS only. -/
theorem timerAdvance_of_disabled {s : State} (h : s.timer.tac.getLsbD 2 = false) (n : Nat) :
    (timerAdvance n s).timer.tima = s.timer.tima ∧ (timerAdvance n s).ifReg = s.ifReg := by
  induction n with
  | zero => exact ⟨rfl, rfl⟩
  | succ n ih =>
    have off : ¬ ((timerAdvance n s).timer.tac.getLsbD 2 = true ∧
        ((timerAdvance n s).timer.sys.toNat + 1) % timerPeriod (timerAdvance n s).timer.tac = 0) := by
      rintro ⟨on, -⟩
      rw [timerAdvance_tac, h] at on
      cases on
    rw [timerAdvance_succ, timerCycle_eq_ite, if_neg off]
    exact ih

/-! ## TIMA and its reloads -/

/-- TIMA after it has been counted to `c` from 0, going on from TMA each time it would pass 0xFF. -/
def timaAt (tma c : Nat) : Nat := if c < 256 then c else tma + (c - 256) % (256 - tma)

theorem timaAt_of_lt {c : Nat} (h : c < 256) (tma : Nat) : timaAt tma c = c := if_pos h

theorem timaAt_of_le {c : Nat} (h : 256 ≤ c) (tma : Nat) : timaAt tma c = tma + (c - 256) % (256 - tma) :=
  if_neg (Nat.not_lt.mpr h)

theorem timaAt_succ {tma : Nat} (h : tma < 256) (c : Nat) :
    timaAt tma (c + 1) = if timaAt tma c = 255 then tma else timaAt tma c + 1 := by
  rcases Nat.lt_trichotomy c 255 with below | rfl | past
  · rw [timaAt_of_lt (c := c) (by omega), timaAt_of_lt (c := c + 1) (by omega), if_neg (by omega)]
  · simp [timaAt]
  · have hpos : 0 < 256 - tma := by omega
    have lt := Nat.mod_lt (c - 256) hpos
    have next : c + 1 - 256 = c - 256 + 1 := by omega
    rw [timaAt_of_le (c := c) past, timaAt_of_le (c := c + 1) (by omega), next,
      ← Nat.mod_add_mod]
    by_cases last : (c - 256) % (256 - tma) + 1 = 256 - tma
    · rw [if_pos (by omega), last, Nat.mod_self, Nat.add_zero]
    · rw [if_neg (by omega), Nat.mod_eq_of_lt (by omega), Nat.add_assoc]

/-- Once TIMA stands at 0xFF, one more count passes the end. -/
theorem le_of_timaAt_eq {tma c : Nat} (h : timaAt tma c = 255) : 256 ≤ c + 1 := by
  unfold timaAt at h
  split at h <;> omega

theorem succ_lt_iff_of_timaAt_ne {tma c : Nat} (h : timaAt tma c ≠ 255) : c + 1 < 256 ↔ c < 256 := by
  unfold timaAt at h
  split at h <;> omega

/-- In `t` the timer of `s` has been counted to `c`: TIMA is what that leaves, and the timer request is raised once the
count has passed 0xFF. -/
structure CountedTo (s : State) (c : Nat) (t : State) : Prop where
  tma   : t.timer.tma = s.timer.tma
  tima  : t.timer.tima.toNat = timaAt s.timer.tma.toNat c
  ifReg : t.ifReg = if c < 256 then s.ifReg else s.ifReg ||| 4

theorem CountedTo.increment {s t : State} {c : Nat} (h : CountedTo s c t) : CountedTo s (c + 1) (timaIncrement t) := by
  have full : t.timer.tima = 0xFF ↔ timaAt s.timer.tma.toNat c = 255 := by
    rw [← h.tima, ← BitVec.toNat_inj]
    rfl
  have next := timaAt_succ s.timer.tma.isLt c
  by_cases hfull : t.timer.tima = 0xFF
  · have passed := le_of_timaAt_eq (full.mp hfull)
    rw [timaIncrement_of_full hfull]
    refine ⟨h.tma, ?_, ?_⟩
    · rw [next, if_pos (full.mp hfull)]
      exact congrArg BitVec.toNat h.tma
    · rw [if_neg (Nat.not_lt.mpr passed), State.request_ifReg, h.ifReg]
      show (if c < 256 then s.ifReg else s.ifReg ||| 4) ||| 4 = s.ifReg ||| 4
      split
      · rfl
      · rw [BitVec.or_assoc, BitVec.or_self]
  · rw [timaIncrement_of_not_full hfull]
    refine ⟨h.tma, ?_, ?_⟩
    · have lt : t.timer.tima.toNat + 1 < 256 := by
        have ne : t.timer.tima.toNat ≠ 255 := fun e => hfull (BitVec.eq_of_toNat_eq e)
        omega
      rw [next, if_neg (mt full.mpr hfull), ← h.tima]
      exact (BitVec.toNat_add _ _).trans (Nat.mod_eq_of_lt lt)
    · simp only [succ_lt_iff_of_timaAt_ne (mt full.mpr hfull)]
      exact h.ifReg

theorem CountedTo.countCycle {s t : State} {c : Nat} (h : CountedTo s c t) : CountedTo s c (countCycle t) :=
  ⟨h.tma, h.tima, h.ifReg⟩

theorem CountedTo.start (s : State) : CountedTo s s.timer.tima.toNat s := by
  have lt := s.timer.tima.isLt
  exact ⟨rfl, (if_pos lt).symm, (if_pos lt).symm⟩

/-- An enabled timer counts the multiples of its period that SYS passes. -/
theorem timerAdvance_countedTo {s : State} (h : s.timer.tac.getLsbD 2 = true) (n : Nat) :
    CountedTo s (s.timer.tima.toNat + ((s.timer.sys.toNat + n) / timerPeriod s.timer.tac -
      s.timer.sys.toNat / timerPeriod s.timer.tac)) (timerAdvance n s) := by
  induction n with
  | zero =>
    rw [Nat.add_zero, Nat.sub_self]
    exact CountedTo.start s
  | succ n ih =>
    have multiple : ((timerAdvance n s).timer.sys.toNat + 1) % timerPeriod s.timer.tac =
        (s.timer.sys.toNat + (n + 1)) % timerPeriod s.timer.tac := by
      rw [timerAdvance_sys_toNat, Nat.add_mod, Nat.mod_mod_of_dvd _ (timerPeriod_dvd _), ← Nat.add_mod, Nat.add_assoc]
    rw [timerAdvance_succ, timerCycle_eq_ite, timerAdvance_tac, multiple, passed_succ]
    by_cases passes : (s.timer.sys.toNat + (n + 1)) % timerPeriod s.timer.tac = 0
    · rw [if_pos passes, if_pos ⟨h, passes⟩]
      exact ih.countCycle.increment
    · rw [if_neg passes, if_neg (fun both => passes both.2)]
      exact ih.countCycle

/-- Settles O53, by induction on the cycles: the count grows by one at each multiple of the period, and TIMA and IF follow
the count. -/
theorem theTimerCountsPeriodsAndReloadsOnOverflow : Obligations.TheTimerCountsPeriodsAndReloadsOnOverflow := by
  intro n s t sys period count
  have hperiod : timerPeriod s.timer.tac = period := timerPeriod_eq s.timer.tac
  have counted : s.timer.tac.getLsbD 2 = true → CountedTo s count t := fun on => by
    have counted := timerAdvance_countedTo on n
    rwa [hperiod] at counted
  refine ⟨timerAdvance_eq n s, timerAdvance_sys_toNat n s, timerAdvance_tma n s, timerAdvance_tac n s,
    fun off => timerAdvance_of_disabled off n, fun on below => ?_, fun on passed => ?_⟩
  · exact ⟨(counted on).tima.trans (if_pos below), (counted on).ifReg.trans (if_pos below)⟩
  · have notBelow : ¬ count < 256 := Nat.not_lt.mpr passed
    exact ⟨(counted on).tima.trans (if_neg notBelow), (counted on).ifReg.trans (if_neg notBelow)⟩

end Sys2Proof.Machine
end

section
/-! The exceptions family, the scanline state machine: what one dot raises and where it leads, and where any number of
dots leads from the start of a frame. -/

namespace Sys2Proof.Machine

/-! ## The requests, bit by bit (`60_exceptions.md` rule R509) -/

theorem request_getLsbD (q : Irq) (s : State) (j : Nat) :
    (s.request q).ifReg.getLsbD j = (s.ifReg.getLsbD j || j == q.bit) := by
  rw [State.request_ifReg, BitVec.getLsbD_or, irqMask_getLsbD]

theorem requestIf_getLsbD (b : Bool) (q : Irq) (s : State) (j : Nat) :
    (s.requestIf b q).ifReg.getLsbD j = (s.ifReg.getLsbD j || b && j == q.bit) := by
  cases b
  · exact (Bool.or_false _).symm
  · exact request_getLsbD q s j

/-! ## What the entries of the modes raise (rules R552 to R556) -/

theorem lycCheck_getLsbD (s : State) (j : Nat) :
    (lycCheck s).ifReg.getLsbD j =
      (s.ifReg.getLsbD j || (s.lcd.ly == s.lcd.lyc && s.lcd.stat.getLsbD 3) && j == 1) := requestIf_getLsbD _ _ _ _

theorem enterHBlank_getLsbD (s : State) (j : Nat) :
    (enterHBlank s).ifReg.getLsbD j = (s.ifReg.getLsbD j || s.lcd.stat.getLsbD 0 && j == 1) :=
  requestIf_getLsbD _ _ _ _

theorem enterVBlank_getLsbD (s : State) (j : Nat) :
    (enterVBlank s).ifReg.getLsbD j = (s.ifReg.getLsbD j || j == 0 || s.lcd.stat.getLsbD 1 && j == 1) :=
  (requestIf_getLsbD _ _ _ _).trans (congrArg (· || _) (request_getLsbD _ _ _))

theorem enterOamScan_getLsbD (s : State) (j : Nat) :
    (enterOamScan s).ifReg.getLsbD j = (s.ifReg.getLsbD j || s.lcd.stat.getLsbD 2 && j == 1) :=
  requestIf_getLsbD _ _ _ _

/-! ## What the entries of the modes do to the completed frame (rule R553) -/

@[simp] theorem enterHBlank_redrawPending (s : State) : (enterHBlank s).ppu.redrawPending = s.ppu.redrawPending := by
  simp [enterHBlank, renderLine]
@[simp] theorem enterHBlank_front (s : State) : (enterHBlank s).ppu.front = s.ppu.front := by
  simp [enterHBlank, renderLine]
@[simp] theorem enterVBlank_redrawPending (s : State) : (enterVBlank s).ppu.redrawPending = true := by
  simp [enterVBlank]
@[simp] theorem enterVBlank_front (s : State) : (enterVBlank s).ppu.front = s.ppu.fb := by simp [enterVBlank]
@[simp] theorem enterOamScan_redrawPending (s : State) :
    (enterOamScan s).ppu.redrawPending = s.ppu.redrawPending := by simp [enterOamScan]
@[simp] theorem enterOamScan_front (s : State) : (enterOamScan s).ppu.front = s.ppu.front := by simp [enterOamScan]

/-! ## What one dot is -/

/-- The next line begun, before what its number brings (rule R551). -/
def nextLine (s : State) : State := { s with ppu.dot := 0, lcd.ly := s.lcd.ly + 1 }

/-- The first line of a frame begun (rule R557). -/
def firstLine (s : State) : State := { s with ppu.dot := 0, lcd.ly := 0, ppu.wlc := 0 }

/-- The event that a dot is, with the state it leads to: the entry to h-blank, the entry to v-blank, to the OAM scan of
the next line or of a new frame, the end of another v-blank line, or none of these, where the mode can only become 3. -/
inductive DotEvent (s : State) : State → Prop where
  | quiet (hdot : s.ppu.dot ≠ 455) (hvis : s.lcd.ly.toNat < 144 → s.ppu.dot ≠ 251) :
      DotEvent s { countDot s with
        ppu.mode := if s.lcd.ly.toNat < 144 ∧ s.ppu.dot = 79 then .pixelTransfer else s.ppu.mode }
  | hBlank (hdot : s.ppu.dot = 251) (hly : s.lcd.ly.toNat < 144) : DotEvent s (enterHBlank (countDot s))
  | vBlank (hdot : s.ppu.dot = 455) (hly : s.lcd.ly.toNat = 143) : DotEvent s (lycCheck (enterVBlank (nextLine s)))
  | oamScan (hdot : s.ppu.dot = 455) (hly : s.lcd.ly.toNat < 143) : DotEvent s (lycCheck (enterOamScan (nextLine s)))
  | newFrame (hdot : s.ppu.dot = 455) (hly : s.lcd.ly.toNat = 153) : DotEvent s (lycCheck (enterOamScan (firstLine s)))
  | blankLine (hdot : s.ppu.dot = 455) (hlo : 144 ≤ s.lcd.ly.toNat) (hne : s.lcd.ly.toNat ≠ 153) :
      DotEvent s (lycCheck (nextLine s))

theorem endVisibleLine_of_last {s : State} (h : (s.lcd.ly + 1).toNat = visibleLines) :
    endVisibleLine s = lycCheck (enterVBlank (nextLine s)) := by
  simp only [endVisibleLine, if_pos h, nextLine]

theorem endVisibleLine_of_not_last {s : State} (h : (s.lcd.ly + 1).toNat ≠ visibleLines) :
    endVisibleLine s = lycCheck (enterOamScan (nextLine s)) := by
  simp only [endVisibleLine, if_neg h, nextLine]

theorem dotEvent_endVisibleLine {s : State} (hdot : s.ppu.dot = 455) (hly : s.lcd.ly.toNat < 144) :
    DotEvent s (endVisibleLine (countDot s)) := by
  have next : (s.lcd.ly + 1).toNat = s.lcd.ly.toNat + 1 := by bv_omega
  by_cases hlast : (s.lcd.ly + 1).toNat = visibleLines
  · have e := endVisibleLine_of_last (s := countDot s) hlast
    rw [e]
    exact .vBlank hdot (Nat.succ.inj (next.symm.trans hlast))
  · have e := endVisibleLine_of_not_last (s := countDot s) hlast
    rw [e]
    exact .oamScan hdot (Nat.lt_of_le_of_ne (Nat.le_of_lt_succ hly) fun h => hlast (by rw [next, h]; rfl))

theorem dotEvent_endBlankLine {s : State} (hdot : s.ppu.dot = 455) (hly : 144 ≤ s.lcd.ly.toNat) :
    DotEvent s (endBlankLine (countDot s)) := by
  have last : (s.lcd.ly + 1).toNat = linesPerFrame ↔ s.lcd.ly.toNat = 153 := by
    rw [show linesPerFrame = 154 from rfl]
    bv_omega
  by_cases hlast : (s.lcd.ly + 1).toNat = linesPerFrame
  · have e := endBlankLine_of_last (s := countDot s) hlast
    rw [e]
    exact .newFrame hdot (last.mp hlast)
  · have e := endBlankLine_of_not_last (s := countDot s) hlast
    rw [e]
    exact .blankLine hdot hly (mt last.mpr hlast)

theorem ppuDot_dotEvent (s : State) : DotEvent s (ppuDot s) := by
  rcases ppuDot_cases s with ⟨hvis, h80, e⟩ | ⟨hvis, h252, e⟩ | ⟨hvis, h456, e⟩ | ⟨hblank, h456, e⟩ | ⟨h456, hquiet, e⟩
    <;> rw [e]
  · have mode3 := DotEvent.quiet (s := s) (by omega) (by omega)
    rwa [if_pos ⟨hvis, Nat.succ.inj h80⟩] at mode3
  · exact .hBlank (Nat.succ.inj h252) hvis
  · exact dotEvent_endVisibleLine (Nat.succ.inj h456) hvis
  · exact dotEvent_endBlankLine (Nat.succ.inj h456) hblank
  · have same := DotEvent.quiet (s := s) (by omega) (by omega)
    rwa [if_neg (by omega)] at same

/-! ## What one dot raises -/

/-- The effect of a dot on the requests and on the completed frame: the v-blank request, with the frame, and the
LCD-status request, each where its flag says so (rules R552 to R556). -/
structure DotEffect (s t : State) (vBlank status : Bool) : Prop where
  request : ∀ j, t.ifReg.getLsbD j = (s.ifReg.getLsbD j || vBlank && j == 0 || status && j == 1)
  redraw : t.ppu.redrawPending = (s.ppu.redrawPending || vBlank)
  front : t.ppu.front = if vBlank then s.ppu.fb else s.ppu.front

section
variable {s t : State} {vBlank status : Bool}

theorem DotEffect.request_zero (h : DotEffect s t vBlank status) :
    t.ifReg.getLsbD 0 = (s.ifReg.getLsbD 0 || vBlank) :=
  (h.request 0).trans (by simp)

theorem DotEffect.request_one (h : DotEffect s t vBlank status) :
    t.ifReg.getLsbD 1 = (s.ifReg.getLsbD 1 || status) :=
  (h.request 1).trans (by simp)

theorem DotEffect.request_of_two_le (h : DotEffect s t vBlank status) {j : Nat} (hj : 2 ≤ j) :
    t.ifReg.getLsbD j = s.ifReg.getLsbD j := by
  have h0 : (j == 0) = false := beq_eq_false_iff_ne.mpr (by omega)
  have h1 : (j == 1) = false := beq_eq_false_iff_ne.mpr (by omega)
  rw [h.request, h0, h1, Bool.and_false, Bool.and_false, Bool.or_false, Bool.or_false]

end

theorem enterHBlank_dotEffect (s : State) :
    DotEffect s (enterHBlank (countDot s)) false (s.lcd.stat.getLsbD 0) where
  request j := by
    rw [enterHBlank_getLsbD, Bool.false_and, Bool.or_false]
    rfl
  redraw := (enterHBlank_redrawPending _).trans (Bool.or_false _).symm
  front := enterHBlank_front _

/-- The last dot of a line that the OAM scan of the next follows. -/
theorem enterOamScan_dotEffect {s u : State} (hif : u.ifReg = s.ifReg) (hstat : u.lcd.stat = s.lcd.stat)
    (hredraw : u.ppu.redrawPending = s.ppu.redrawPending) (hfront : u.ppu.front = s.ppu.front) :
    DotEffect s (lycCheck (enterOamScan u)) false
      (s.lcd.stat.getLsbD 2 || u.lcd.ly == u.lcd.lyc && s.lcd.stat.getLsbD 3) where
  request j := by
    rw [lycCheck_getLsbD, enterOamScan_getLsbD, enterOamScan_lcd, hif, hstat, Bool.or_assoc,
      ← Bool.and_or_distrib_right, Bool.false_and, Bool.or_false]
  redraw := by rw [lycCheck_ppu, enterOamScan_redrawPending, hredraw, Bool.or_false]
  front := by rw [lycCheck_ppu, enterOamScan_front, hfront]; rfl

/-- The last dot of line 143 (rules R553, R554). -/
theorem enterVBlank_dotEffect (s : State) :
    DotEffect s (lycCheck (enterVBlank (nextLine s))) true
      (s.lcd.stat.getLsbD 1 || s.lcd.ly + 1 == s.lcd.lyc && s.lcd.stat.getLsbD 3) where
  request j := by
    rw [lycCheck_getLsbD, enterVBlank_getLsbD, enterVBlank_lcd, Bool.or_assoc, ← Bool.and_or_distrib_right,
      Bool.true_and]
    rfl
  redraw := by rw [lycCheck_ppu, enterVBlank_redrawPending, Bool.or_true]
  front := by rw [lycCheck_ppu, enterVBlank_front]; rfl

/-- The last dot of a v-blank line that another one follows: only LYC is compared. -/
theorem nextLine_dotEffect (s : State) :
    DotEffect s (lycCheck (nextLine s)) false (s.lcd.ly + 1 == s.lcd.lyc && s.lcd.stat.getLsbD 3) where
  request j := by
    rw [lycCheck_getLsbD, Bool.false_and, Bool.or_false]
    rfl
  redraw := by rw [lycCheck_ppu, Bool.or_false]; rfl
  front := by rw [lycCheck_ppu]; rfl

/-- The comparison of the new LY with LYC, as numbers (rule R556). -/
theorem nextLy_beq {ly : Byte} (h : ly.toNat < 153) (lyc : Byte) :
    (ly + 1 == lyc) = decide ((ly.toNat + 1) % 154 = lyc.toNat) := by
  have e : (ly + 1).toNat = (ly.toNat + 1) % 154 := by
    rw [Nat.mod_eq_of_lt (by omega)]
    bv_omega
  rw [← e, Bool.beq_eq_decide_eq, decide_eq_decide, BitVec.toNat_inj]

/-- The requests of a dot, by its place in the frame. -/
theorem ppuDot_dotEffect {s : State} (hly : s.lcd.ly.toNat < 154) :
    let last := decide (s.ppu.dot = 455)
    let vBlank := last && decide (s.lcd.ly.toNat = 143)
    let hBlank := decide (s.ppu.dot = 251) && decide (s.lcd.ly.toNat < 144)
    let oamScan := last && (decide (s.lcd.ly.toNat < 143) || decide (s.lcd.ly.toNat = 153))
    let lycMatch := last && decide ((s.lcd.ly.toNat + 1) % 154 = s.lcd.lyc.toNat)
    DotEffect s (ppuDot s) vBlank
      (hBlank && s.lcd.stat.getLsbD 0 || vBlank && s.lcd.stat.getLsbD 1 || oamScan && s.lcd.stat.getLsbD 2 ||
        lycMatch && s.lcd.stat.getLsbD 3) := by
  intro last vBlank hBlank oamScan lycMatch
  have event := ppuDot_dotEvent s
  generalize ppuDot s = t at event
  cases event with
  | quiet hdot hvis =>
    have hlast : last = false := decide_eq_false hdot
    have hquiet : hBlank = false := by
      simp only [hBlank, Bool.and_eq_false_iff, decide_eq_false_iff_not]
      omega
    simp only [vBlank, oamScan, lycMatch, hlast, hquiet, Bool.false_and, Bool.or_false]
    exact ⟨fun j => by simp [countDot], by simp [countDot], by simp [countDot]⟩
  | hBlank hdot hly =>
    have effect := enterHBlank_dotEffect s
    simpa [last, vBlank, hBlank, oamScan, lycMatch, hdot, hly] using effect
  | vBlank hdot hly =>
    have effect := enterVBlank_dotEffect s
    rw [nextLy_beq (by omega)] at effect
    simpa [last, vBlank, hBlank, oamScan, lycMatch, hdot, hly] using effect
  | oamScan hdot hly =>
    have effect := enterOamScan_dotEffect (s := s) (u := nextLine s) rfl rfl rfl rfl
    have hlyc : ((nextLine s).lcd.ly == (nextLine s).lcd.lyc) = _ := nextLy_beq (by omega) s.lcd.lyc
    rw [hlyc] at effect
    have not143 : s.lcd.ly.toNat ≠ 143 := by omega
    simpa [last, vBlank, hBlank, oamScan, lycMatch, hdot, hly, not143] using effect
  | newFrame hdot hly =>
    have effect := enterOamScan_dotEffect (s := s) (u := firstLine s) rfl rfl rfl rfl
    have hlyc : ((firstLine s).lcd.ly == (firstLine s).lcd.lyc) = decide (0 = s.lcd.lyc.toNat) := by
      rw [Bool.beq_eq_decide_eq, decide_eq_decide, ← BitVec.toNat_inj]
      rfl
    rw [hlyc] at effect
    simpa [last, vBlank, hBlank, oamScan, lycMatch, hdot, hly] using effect
  | blankLine hdot hlo hne =>
    have effect := nextLine_dotEffect s
    rw [nextLy_beq (by omega)] at effect
    have not143 : s.lcd.ly.toNat ≠ 143 := by omega
    have notBelow : ¬ s.lcd.ly.toNat < 143 := by omega
    simpa [last, vBlank, hBlank, oamScan, lycMatch, hdot, hne, not143, notBelow] using effect

/-! ## The mode that a dot enters (rules R552 to R555) -/

section
variable {s t : State}

theorem DotEvent.mode_hBlank (h : DotEvent s t) (hdot : s.ppu.dot = 251) (hly : s.lcd.ly.toNat < 144) :
    t.ppu.mode = .hBlank := by
  cases h with
  | hBlank => exact enterHBlank_mode _
  | quiet _ hvis => exact absurd hdot (hvis hly)
  | vBlank | oamScan | newFrame | blankLine => omega

theorem DotEvent.mode_vBlank (h : DotEvent s t) (hdot : s.ppu.dot = 455) (hly : s.lcd.ly.toNat = 143) :
    t.ppu.mode = .vBlank ∧ t.lcd.ly = 144 := by
  cases h with
  | vBlank =>
    rw [lycCheck_ppu, lycCheck_lcd, enterVBlank_lcd]
    have next : s.lcd.ly + 1 = 144 := BitVec.eq_of_toNat_eq (by rw [BitVec.toNat_add, hly]; rfl)
    exact ⟨enterVBlank_mode _, next⟩
  | quiet | hBlank | oamScan | newFrame | blankLine => omega

theorem DotEvent.mode_oamScan (h : DotEvent s t) (hdot : s.ppu.dot = 455)
    (hly : s.lcd.ly.toNat < 143 ∨ s.lcd.ly.toNat = 153) : t.ppu.mode = .oamScan := by
  cases h with
  | oamScan | newFrame =>
    rw [lycCheck_ppu]
    exact enterOamScan_mode _
  | quiet | hBlank | vBlank | blankLine => omega

end

/-- Settles O55: each event of a dot raises its own requests, and enters its own mode. -/
theorem aDotRaisesExactlyTheEnabledRequests : Obligations.ADotRaisesExactlyTheEnabledRequests := by
  intro s hok _ t ly last vBlank hBlank oamScan match'
  have effect := ppuDot_dotEffect hok.ly
  have event := ppuDot_dotEvent s
  refine ⟨effect.request_zero, ?status, fun j hj => effect.request_of_two_le hj, effect.redraw, effect.front,
    fun h => ?hBlank, fun h => ?vBlank, fun h => ?oamScan⟩
  case status =>
    rw [effect.request_one]
    simp only [Bool.or_assoc]
    rfl
  case hBlank =>
    obtain ⟨hdot, hly⟩ := Bool.and_eq_true_iff.mp h
    exact event.mode_hBlank (of_decide_eq_true hdot) (of_decide_eq_true hly)
  case vBlank =>
    obtain ⟨hdot, hly⟩ := Bool.and_eq_true_iff.mp h
    exact event.mode_vBlank (of_decide_eq_true hdot) (of_decide_eq_true hly)
  case oamScan =>
    obtain ⟨hdot, hly⟩ := Bool.and_eq_true_iff.mp h
    exact event.mode_oamScan (of_decide_eq_true hdot)
      ((Bool.or_eq_true_iff.mp hly).imp of_decide_eq_true of_decide_eq_true)

/-! ## Any number of dots (rules R550, R551, R557) -/

theorem ppuDots_succ (c : Nat) (s : State) : ppuDots (c + 1) s = ppuDot (ppuDots c s) := by
  induction c generalizing s with
  | zero => rfl
  | succ c ih => rw [ppuDots, ih, ← ppuDots]

theorem ppuAdvance_of_on {s : State} (h : s.lcdOn = true) (c : Nat) : ppuAdvance c s = ppuDots c s := if_pos h

/-- `s` is `k` dots past the start of a frame in which no frame was yet completed: LY, the dot and the mode are those of
the 456-dot lines and 154-line frames, and the redraw flag tells whether line 144 has begun. -/
structure FrameAt (k : Nat) (s : State) : Prop where
  ly : s.lcd.ly.toNat = k / 456 % 154
  dot : s.ppu.dot = k % 456
  mode : s.ppu.mode = modeAt (k / 456 % 154) (k % 456)
  redraw : s.ppu.redrawPending = true ↔ 144 * 456 ≤ k

theorem FrameAt.start {s : State} (ly : s.lcd.ly = 0) (dot : s.ppu.dot = 0) (mode : s.ppu.mode = .oamScan)
    (redraw : s.ppu.redrawPending = false) : FrameAt 0 s :=
  ⟨congrArg BitVec.toNat ly, dot, mode, by simp [redraw]⟩

/-- `k` dots past a frame's start is the dot `dot` of line `ly`. -/
theorem FrameAt.of_place {k ly dot : Nat} {t : State} (ly_eq : k / 456 % 154 = ly) (dot_eq : k % 456 = dot)
    (hly : t.lcd.ly.toNat = ly) (hdot : t.ppu.dot = dot) (mode : t.ppu.mode = modeAt ly dot)
    (redraw : t.ppu.redrawPending = true ↔ 144 * 456 ≤ k) : FrameAt k t := by
  subst ly_eq dot_eq
  exact ⟨hly, hdot, mode, redraw⟩

theorem nextLine_ly_toNat {s : State} (h : s.lcd.ly.toNat < 154) :
    (nextLine s).lcd.ly.toNat = s.lcd.ly.toNat + 1 := by
  show (s.lcd.ly + 1).toNat = _
  bv_omega

/-- The mode of the next dot, where that dot neither ends the line nor enters h-blank. -/
theorem modeAt_quiet {ly dot : Nat} (h : ly < 144 → dot ≠ 251) :
    (if ly < 144 ∧ dot = 79 then .pixelTransfer else modeAt ly dot) = modeAt ly (dot + 1) := by
  split
  · rename_i mode3
    obtain ⟨hly, rfl⟩ := mode3
    exact (modeAt_pixelTransfer hly (by decide) (by decide)).symm
  · exact (modeAt_succ (by omega)).symm

/-- The redraw flag is raised by the last dot of line 143, the dot 144 · 456 of the frame. -/
theorem FrameAt.redraw_ppuDot {k : Nat} {s : State} (h : FrameAt k s) :
    (ppuDot s).ppu.redrawPending = true ↔ 144 * 456 ≤ k + 1 := by
  obtain ⟨hly, hdot, -, hredraw⟩ := h
  rw [(ppuDot_dotEffect (s := s) (by omega)).redraw, Bool.or_eq_true_iff, Bool.and_eq_true_iff, decide_eq_true_iff,
    decide_eq_true_iff, hredraw, hly, hdot]
  omega

/-- LY, the dot and the mode that each event leads to are those of the next place of the frame. -/
theorem FrameAt.ppuDot {k : Nat} {s : State} (h : FrameAt k s) : FrameAt (k + 1) (ppuDot s) := by
  have redraw := h.redraw_ppuDot
  have event := ppuDot_dotEvent s
  generalize Machine.ppuDot s = t at redraw event
  obtain ⟨hly, hdot, hmode, -⟩ := h
  cases event with
  | quiet hdot' hvis =>
    refine .of_place (ly := s.lcd.ly.toNat) (dot := s.ppu.dot + 1) (by omega) (by omega) rfl rfl ?_ redraw
    rw [← modeAt_quiet hvis, hly, hdot, ← hmode]
  | hBlank hdot' hvis =>
    refine .of_place (ly := s.lcd.ly.toNat) (dot := 252) (by omega) (by omega) ?_ ?_ ?_ redraw
    · rw [enterHBlank_lcd]; rfl
    · rw [enterHBlank_dot]; exact congrArg (· + 1) hdot'
    · rw [enterHBlank_mode, modeAt_hBlank hvis le_rfl]
  | vBlank hdot' hly' =>
    refine .of_place (ly := s.lcd.ly.toNat + 1) (dot := 0) (by omega) (by omega) ?_ ?_ ?_ redraw
    · rw [lycCheck_lcd, enterVBlank_lcd, nextLine_ly_toNat (by omega)]
    · rw [lycCheck_ppu, enterVBlank_dot]; rfl
    · rw [lycCheck_ppu, enterVBlank_mode, modeAt_blank (by omega)]
  | oamScan hdot' hly' =>
    refine .of_place (ly := s.lcd.ly.toNat + 1) (dot := 0) (by omega) (by omega) ?_ ?_ ?_ redraw
    · rw [lycCheck_lcd, enterOamScan_lcd, nextLine_ly_toNat (by omega)]
    · rw [lycCheck_ppu, enterOamScan_dot]; rfl
    · rw [lycCheck_ppu, enterOamScan_mode, modeAt_oamScan (by omega) (by decide)]
  | newFrame hdot' hly' =>
    refine .of_place (ly := 0) (dot := 0) (by omega) (by omega) ?_ ?_ ?_ redraw
    · rw [lycCheck_lcd, enterOamScan_lcd]; rfl
    · rw [lycCheck_ppu, enterOamScan_dot]; rfl
    · rw [lycCheck_ppu, enterOamScan_mode, modeAt_oamScan (by decide) (by decide)]
  | blankLine hdot' hlo hne =>
    refine .of_place (ly := s.lcd.ly.toNat + 1) (dot := 0) (by omega) (by omega) ?_ ?_ ?_ redraw
    · rw [lycCheck_lcd, nextLine_ly_toNat (by omega)]
    · rw [lycCheck_ppu]; rfl
    · rw [lycCheck_ppu, modeAt_blank (by omega)]
      exact hmode.trans (modeAt_blank (hly ▸ hlo))

theorem ppuDots_frameAt {s : State} (h : FrameAt 0 s) (k : Nat) : FrameAt k (ppuDots k s) := by
  induction k with
  | zero => exact h
  | succ k ih =>
    rw [ppuDots_succ]
    exact ih.ppuDot

/-- Settles O54, by induction on the dots. -/
theorem aFrameIs154LinesOf456Dots : Obligations.AFrameIs154LinesOf456Dots := by
  intro s k on ly dot mode redraw t
  have frame : FrameAt k t := by
    have dots := ppuDots_frameAt (FrameAt.start ly dot mode redraw) k
    rwa [← ppuAdvance_of_on on] at dots
  have lcdc : t.lcd.lcdc = s.lcd.lcdc := congrArg (fun u => u.lcd.lcdc) (ppuAdvance_eq k s)
  exact ⟨frame.ly, frame.dot, frame.mode, frame.redraw, lcdc⟩

end Sys2Proof.Machine
end

section
/-! The exceptions family, the rasterizer: the pixels of tiles, of the background and the window, and of the sprites, and
the one row of the framebuffer that a line writes. -/

namespace Sys2Proof.Machine

/-! ## Tiles and palettes (`60_exceptions.md` rules R561, R564) -/

/-- A tile's pixel is one bit of each of the two bytes of its row. -/
theorem tilePixel_toNat (vram : Memory) (base px py : Nat) :
    (tilePixel vram base px py).toNat =
      2 * ((Memory.read vram (base + 2 * py + 1 - 0x8000)).getLsbD (7 - px)).toNat +
        ((Memory.read vram (base + 2 * py - 0x8000)).getLsbD (7 - px)).toNat := by
  rw [tilePixel, toNat_append_eq_add, BitVec.toNat_ofBool, BitVec.toNat_ofBool, Nat.mul_comm]
  rfl

/-- Tile numbers from 128 on are negative in the signed mode: their tiles lie below 0x9000. -/
theorem tileBase_eq (lcdc t : Byte) :
    tileBase lcdc t =
      if lcdc.getLsbD 4 then 0x8000 + 16 * t.toNat
      else if t.toNat < 128 then 0x9000 + 16 * t.toNat else 0x8000 + 16 * t.toNat := by
  have signed : t.toInt = if t.toNat < 128 then (t.toNat : Int) else t.toNat - 256 := by
    rw [BitVec.toInt_eq_toNat_cond]
    split_ifs <;> omega
  rw [tileBase, signed]
  split_ifs <;> omega

theorem paletteShade_toNat (pal : Byte) (ci : BitVec 2) :
    (paletteShade pal ci).toNat = pal.toNat / 4 ^ ci.toNat % 4 := by
  rw [paletteShade, BitVec.toNat_setWidth, BitVec.toNat_ushiftRight, Nat.shiftRight_eq_div_pow, Nat.pow_mul]

/-! ## The background and the window (rules R562 to R564) -/

/-- The window covers column `x` of line `ly`. -/
def windowAt (s : State) (ly x : Nat) : Bool := windowOnLine s ly && decide (s.lcd.wx.toNat ≤ x + 7)

/-- With the background on, its pixel is one of a plane: the window's, at its own line, or the scrolled background's. -/
theorem bgIndex_of_on {s : State} (h : s.lcd.lcdc.getLsbD 0 = true) (ly x : Nat) :
    bgIndex s ly x =
      mapPixel s (tileMap (if windowAt s ly x then s.lcd.lcdc.getLsbD 6 else s.lcd.lcdc.getLsbD 3))
        (if windowAt s ly x then x + 7 - s.lcd.wx.toNat else (x + s.lcd.scx.toNat) % 256)
        (if windowAt s ly x then s.ppu.wlc else (ly + s.lcd.scy.toNat) % 256) := by
  rw [bgIndex, if_pos h]
  change (if windowAt s ly x = true then _ else _) = _
  split <;> rfl

theorem bgIndex_of_off {s : State} (h : s.lcd.lcdc.getLsbD 0 = false) (ly x : Nat) : bgIndex s ly x = 0 := by
  rw [bgIndex, h]
  rfl

theorem bgShade_of_on {s : State} (h : s.lcd.lcdc.getLsbD 0 = true) (ly x : Nat) :
    bgShade s ly x = paletteShade s.lcd.bgp (bgIndex s ly x) := if_pos h

theorem bgShade_of_off {s : State} (h : s.lcd.lcdc.getLsbD 0 = false) (ly x : Nat) : bgShade s ly x = 0 := by
  rw [bgShade, h]
  rfl

/-! ## The line in the framebuffer (rules R560, R569) -/

theorem renderLine_fb_self (s : State) {ly x : Nat} (hl : ly < 144) (hx : x < 160) :
    ((renderLine s ly).ppu.fb[ly]'hl)[x]'hx = pixelShade s (spritesOnLine s ly) ly x := by
  simp [renderLine, lineShades]

theorem renderLine_fb_ne (s : State) {ly y : Nat} (hy : y < 144) (h : y ≠ ly) :
    (renderLine s ly).ppu.fb[y]'hy = s.ppu.fb[y]'hy :=
  Vector.getElem_setIfInBounds_ne hy h.symm

theorem spritesOnLine_of_off {s : State} (h : s.lcd.lcdc.getLsbD 1 = false) (ly : Nat) : spritesOnLine s ly = [] := by
  rw [spritesOnLine, h]
  rfl

/-- Settles O56: the background's pixel is one of the two planes by whether the window covers it, and a line writes its
own row of the framebuffer. -/
theorem aLineShowsBackgroundAndWindowTiles : Obligations.ALineShowsBackgroundAndWindowTiles := by
  intro s ly x hl hx bit vram onLine window px py map tile base lo hi colour t
  have plane : (mapPixel s map px py).toNat = colour := by
    rw [mapPixel, tilePixel_toNat, tileBase_eq]
  have index : (bgIndex s ly x).toNat = if bit 0 then colour else 0 := by
    cases on : s.lcd.lcdc.getLsbD 0 with
    | true => rw [bgIndex_of_on on, if_pos on]; exact plane
    | false => rw [bgIndex_of_off on, if_neg (Bool.eq_false_iff.mp on)]; rfl
  have shade : (bgShade s ly x).toNat = if bit 0 then s.lcd.bgp.toNat / 4 ^ colour % 4 else 0 := by
    cases on : s.lcd.lcdc.getLsbD 0 with
    | true => rw [bgShade_of_on on, paletteShade_toNat, index, if_pos on, if_pos on]
    | false => rw [bgShade_of_off on, if_neg (Bool.eq_false_iff.mp on)]; rfl
  refine ⟨index, shade, fun off => ?_, fun y hy hne => renderLine_fb_ne s hy hne, rfl, rfl⟩
  rw [renderLine_fb_self, spritesOnLine_of_off off]
  rfl

/-! ## The pixel of a sprite (rules R95, R566) -/

/-- Sprite tiles are numbered from the start of VRAM. -/
theorem tilePixel_unsigned_toNat (vram : Memory) (tile px py : Nat) :
    (tilePixel vram (0x8000 + 16 * tile) px py).toNat =
      2 * ((Memory.read vram (16 * tile + 2 * py + 1)).getLsbD (7 - px)).toNat +
        ((Memory.read vram (16 * tile + 2 * py)).getLsbD (7 - px)).toNat := by
  rw [tilePixel_toNat]
  simp only [Nat.add_assoc, Nat.add_sub_cancel_left]

/-- The tile of a tall sprite's pair that holds the row: the pair's first tile has an even number. -/
theorem tallTile_toNat (tile : Byte) {row : Nat} (h : row < 16) :
    ((tile &&& 0xFE) ||| (if 8 ≤ row then 1 else 0)).toNat = tile.toNat / 2 * 2 + row / 8 := by
  have pair : ∀ v : Byte,
      ((v &&& 0xFE) ||| 0).toNat = v.toNat / 2 * 2 ∧ ((v &&& 0xFE) ||| 1).toNat = v.toNat / 2 * 2 + 1 := by
    decide +kernel
  split
  · rw [(pair tile).2]
    omega
  · rw [(pair tile).1]
    omega

theorem spritePixel_of_not_covering {s : State} {x : Nat} {sp : Sprite} (h : ¬ (sp.x ≤ x + 8 ∧ x + 8 < sp.x + 8))
    (ly : Nat) : spritePixel s ly x sp = none := by
  have covers : ¬ (decide (sp.x ≤ x + 8) && decide (x + 8 < sp.x + 8)) = true := by simpa using h
  exact if_neg covers

/-- The row of an entry's tiles that line `ly` shows, counted from the other end where the entry is flipped. -/
def Sprite.row (sp : Sprite) (height ly : Nat) : Nat :=
  if sp.attr.getLsbD 6 then height - 1 - (ly + 16 - sp.y) else ly + 16 - sp.y

/-- The column of an entry's tile that column `x` shows, counted from the other end where the entry is flipped. -/
def Sprite.col (sp : Sprite) (x : Nat) : Nat :=
  if sp.attr.getLsbD 5 then 7 - (x + 8 - sp.x) else x + 8 - sp.x

/-- The tile that holds the row. -/
def Sprite.tileAt (sp : Sprite) (tall : Bool) (row : Nat) : Nat :=
  if tall then sp.tile.toNat / 2 * 2 + row / 8 else sp.tile.toNat

theorem Sprite.row_lt {sp : Sprite} {height ly : Nat} (h : ly + 16 < sp.y + height) (hy : sp.y ≤ ly + 16) :
    sp.row height ly < height := by
  unfold Sprite.row
  split <;> omega

theorem Sprite.tileAt_eq (s : State) (sp : Sprite) {row : Nat} (h : row < spriteHeight s) :
    (if spriteHeight s = 16 then (sp.tile &&& 0xFE) ||| (if 8 ≤ row then 1 else 0) else sp.tile).toNat =
      sp.tileAt (s.lcd.lcdc.getLsbD 2) row := by
  unfold spriteHeight at h ⊢
  unfold Sprite.tileAt
  generalize s.lcd.lcdc.getLsbD 2 = tall at h ⊢
  cases tall with
  | true => exact tallTile_toNat sp.tile h
  | false => rfl

/-- The tile's pixel that an entry on the line gives at a column that it covers. -/
def Sprite.pixel (s : State) (ly x : Nat) (sp : Sprite) : BitVec 2 :=
  tilePixel s.ram.vram (0x8000 + 16 * sp.tileAt (s.lcd.lcdc.getLsbD 2) (sp.row (spriteHeight s) ly)) (sp.col x)
    (sp.row (spriteHeight s) ly % 8)

/-- Colour index 0 is transparent. -/
theorem spritePixel_of_covering {s : State} {ly x : Nat} {sp : Sprite} (hx : sp.x ≤ x + 8) (hx' : x + 8 < sp.x + 8)
    (hy : sp.y ≤ ly + 16) (hy' : ly + 16 < sp.y + spriteHeight s) :
    spritePixel s ly x sp = if sp.pixel s ly x = 0 then none else some (sp.pixel s ly x) := by
  have covers : (decide (sp.x ≤ x + 8) && decide (x + 8 < sp.x + 8)) = true := by simp [hx, hx']
  rw [spritePixel, if_pos covers, Sprite.pixel, ← Sprite.tileAt_eq s sp (Sprite.row_lt hy' hy)]
  rfl

theorem map_toNat_opaque (ci : BitVec 2) :
    (if ci = 0 then none else some ci).map BitVec.toNat = if ci.toNat = 0 then none else some ci.toNat := by
  revert ci
  decide

/-- Settles O60: the columns, the rows and the tile are the statement's own, and the pixel is two bits of that tile. -/
theorem aSpritePixelFollowsItsOamEntry : Obligations.ASpritePixelFollowsItsOamEntry := by
  refine ⟨fun oam i => ⟨rfl, rfl, rfl, rfl⟩, fun s ly x sp => ?_⟩
  intro height
  refine ⟨fun h => spritePixel_of_not_covering h ly, fun hx hx' hy hy' => ?_⟩
  intro col row tile lo hi index
  have bits : (sp.pixel s ly x).toNat = index :=
    tilePixel_unsigned_toNat s.ram.vram tile col (row % 8)
  rw [spritePixel_of_covering hx hx' hy hy', map_toNat_opaque, bits]

/-! ## The sprites of a line (rule R565) -/

/-- The OAM numbers of the entries that are selected for a line. -/
def selectedEntries (s : State) (ly : Nat) : List Nat :=
  ((List.range 40).filter fun i => (spriteAt s.ram.oam i).onLine (spriteHeight s) ly).take 10

theorem spritesOnLine_of_on {s : State} (h : s.lcd.lcdc.getLsbD 1 = true) (ly : Nat) :
    spritesOnLine s ly = (selectedEntries s ly).map (spriteAt s.ram.oam) := by
  rw [spritesOnLine, if_pos h, List.filter_map, ← List.map_take]
  rfl

theorem spritesOnLine_length_le (s : State) (ly : Nat) : (spritesOnLine s ly).length ≤ 10 := by
  unfold spritesOnLine
  split
  · exact List.length_take_le _ _
  · exact Nat.zero_le _

theorem spritesOnLine_sublist (s : State) (ly : Nat) :
    (spritesOnLine s ly).Sublist ((List.range 40).map (spriteAt s.ram.oam)) := by
  unfold spritesOnLine
  split
  · exact (List.take_sublist _ _).trans List.filter_sublist
  · exact List.nil_sublist _

theorem mem_selectedEntries {s : State} {ly i : Nat} (h : i ∈ selectedEntries s ly) :
    i < 40 ∧ (spriteAt s.ram.oam i).onLine (spriteHeight s) ly = true := by
  obtain ⟨mem, onLine⟩ := List.mem_filter.mp (List.mem_of_mem_take h)
  exact ⟨List.mem_range.mp mem, onLine⟩

theorem mem_spritesOnLine {s : State} {ly : Nat} {sp : Sprite} (h : sp ∈ spritesOnLine s ly) :
    s.lcd.lcdc.getLsbD 1 = true ∧
      ∃ i < 40, sp = spriteAt s.ram.oam i ∧ (spriteAt s.ram.oam i).onLine (spriteHeight s) ly = true := by
  cases on : s.lcd.lcdc.getLsbD 1 with
  | false => simp [spritesOnLine_of_off on] at h
  | true =>
    rw [spritesOnLine_of_on on] at h
    obtain ⟨i, mem, rfl⟩ := List.mem_map.mp h
    obtain ⟨lt, onLine⟩ := mem_selectedEntries mem
    exact ⟨rfl, i, lt, rfl, onLine⟩

/-- What passes a filter, with fewer than `n` before it that do, is among the first `n` that do. -/
theorem mem_take_filter_range {p : Nat → Bool} {i m n : Nat} (hi : i < m) (hp : p i = true)
    (hn : ((List.range i).filter p).length < n) : i ∈ ((List.range m).filter p).take n := by
  obtain ⟨after, split⟩ : ∃ after, List.range m = List.range i ++ i :: after := by
    obtain ⟨k, rfl⟩ : ∃ k, m = i + (k + 1) := ⟨m - i - 1, by omega⟩
    exact ⟨_, by rw [List.range_add, List.range_succ_eq_map, List.map_cons]; rfl⟩
  obtain ⟨j, hj⟩ : ∃ j, n - ((List.range i).filter p).length = j + 1 :=
    ⟨n - ((List.range i).filter p).length - 1, by omega⟩
  rw [split, List.filter_append, List.take_append, hj, List.filter_cons_of_pos hp, List.take_succ_cons]
  exact List.mem_append_right _ List.mem_cons_self

/-! ## The sprite that wins a pixel (rules R567, R568) -/

section
variable {s : State} {ly x : Nat}

theorem winningSprite_eq_none {sprites : List Sprite} (h : ∀ sp ∈ sprites, spritePixel s ly x sp = none) :
    winningSprite s ly x sprites = none := by
  induction sprites with
  | nil => rfl
  | cons sp rest ih =>
    obtain ⟨first, later⟩ := List.forall_mem_cons.mp h
    rw [winningSprite, first, ih later]

theorem winningSprite_mem {sprites : List Sprite} {sp : Sprite} {ci : BitVec 2}
    (h : winningSprite s ly x sprites = some (sp, ci)) : sp ∈ sprites ∧ spritePixel s ly x sp = some ci := by
  induction sprites with
  | nil => cases h
  | cons q rest ih =>
    rw [winningSprite] at h
    split at h
    · obtain ⟨mem, pixel⟩ := ih h
      exact ⟨List.mem_cons_of_mem q mem, pixel⟩
    · rename_i first _
      obtain ⟨rfl, rfl⟩ := Prod.mk.inj (Option.some.inj h)
      exact ⟨List.mem_cons_self, first⟩
    · rename_i first later
      split at h
      · obtain ⟨mem, pixel⟩ := ih (later.trans h)
        exact ⟨List.mem_cons_of_mem q mem, pixel⟩
      · obtain ⟨rfl, rfl⟩ := Prod.mk.inj (Option.some.inj h)
        exact ⟨List.mem_cons_self, first⟩

/-- An opaque sprite wins over the later ones where none of them is further left. -/
theorem winningSprite_cons_self {sp : Sprite} {ci : BitVec 2} {after : List Sprite}
    (h : spritePixel s ly x sp = some ci)
    (hafter : ∀ q ∈ after, (spritePixel s ly x q).isSome = true → sp.x ≤ q.x) :
    winningSprite s ly x (sp :: after) = some (sp, ci) := by
  rw [winningSprite, h]
  cases later : winningSprite s ly x after with
  | none => rfl
  | some winner =>
    obtain ⟨mem, pixel⟩ := winningSprite_mem later
    have le := hafter winner.1 mem (pixel ▸ rfl)
    exact if_neg (Nat.not_lt.mpr le)

/-- The winner of the later ones wins over an earlier sprite that is transparent or further right. -/
theorem winningSprite_cons_later {q sp : Sprite} {ci : BitVec 2} {rest : List Sprite}
    (h : winningSprite s ly x rest = some (sp, ci)) (hq : (spritePixel s ly x q).isSome = true → sp.x < q.x) :
    winningSprite s ly x (q :: rest) = some (sp, ci) := by
  rw [winningSprite, h]
  cases first : spritePixel s ly x q with
  | none => rfl
  | some cj => exact if_pos (hq (first ▸ rfl))

/-- The leftmost opaque sprite wins, the earliest on a tie. -/
theorem winningSprite_eq_some {before after : List Sprite} {sp : Sprite} {ci : BitVec 2}
    (h : spritePixel s ly x sp = some ci)
    (hbefore : ∀ q ∈ before, (spritePixel s ly x q).isSome = true → sp.x < q.x)
    (hafter : ∀ q ∈ after, (spritePixel s ly x q).isSome = true → sp.x ≤ q.x) :
    winningSprite s ly x (before ++ sp :: after) = some (sp, ci) := by
  induction before with
  | nil => exact winningSprite_cons_self h hafter
  | cons q before ih =>
    obtain ⟨first, later⟩ := List.forall_mem_cons.mp hbefore
    exact winningSprite_cons_later (ih later) first

theorem pixelShade_of_none {sprites : List Sprite} (h : winningSprite s ly x sprites = none) :
    pixelShade s sprites ly x = bgShade s ly x := by
  rw [pixelShade, h]

theorem pixelShade_of_some {sprites : List Sprite} {sp : Sprite} {ci : BitVec 2}
    (h : winningSprite s ly x sprites = some (sp, ci)) :
    (pixelShade s sprites ly x).toNat =
      if sp.attr.getLsbD 7 = true ∧ bgIndex s ly x ≠ 0 then (bgShade s ly x).toNat
      else (if sp.attr.getLsbD 4 then s.lcd.obp1 else s.lcd.obp0).toNat / 4 ^ ci.toNat % 4 := by
  rw [pixelShade, h, ← paletteShade_toNat]
  simp only [Bool.and_eq_true, bne_iff_ne]
  exact apply_ite BitVec.toNat _ _ _

end

/-- Settles O57: the selection is a filter of OAM cut at ten, and the pixel is that of the winner among it, if any. -/
theorem theLeftmostEarliestOpaqueSpriteWins : Obligations.TheLeftmostEarliestOpaqueSpriteWins := by
  intro s ly x hl hx sprites shade opaque' entry height onLine
  have hshade : shade = pixelShade s sprites ly x := renderLine_fb_self s hl hx
  refine ⟨spritesOnLine_length_le s ly, spritesOnLine_sublist s ly, fun sp mem => mem_spritesOnLine mem,
    fun i hi on hline few => ?mem, fun clear => ?none, fun before sp after split hbefore hafter ci pixel => ?wins⟩
  case mem =>
    have mem : i ∈ selectedEntries s ly := mem_take_filter_range hi hline few
    have all : sprites = (selectedEntries s ly).map entry := spritesOnLine_of_on on ly
    rw [all]
    exact List.mem_map_of_mem mem
  case none =>
    rw [hshade]
    exact pixelShade_of_none (winningSprite_eq_none fun sp mem => Option.not_isSome_iff_eq_none.mp (clear sp mem))
  case wins =>
    rw [hshade, split]
    exact pixelShade_of_some (winningSprite_eq_some pixel hbefore hafter)

end Sys2Proof.Machine
end

section
/-! The reset family, the host's calls: the states that stand still, the display buffer, and how `run_until_redraw` ends. -/

namespace Sys2Proof.Machine

/-! ## One iteration of a stopped and of a quiet machine (`60_exceptions.md` rules R506, R507) -/

theorem cpuStep_of_stopped {s : State} (h : s.run = .stopped) : cpuStep s = .next (s.tick 0) := by
  rw [cpuStep, h]

theorem advanceDevices_tick_zero (s : State) : advanceDevices (s.tick 0) = s.tick 0 := by
  rw [advanceDevices_of_cycles (State.tick_report s 0)]
  exact ite_self _

theorem step_of_stopped {s : State} (h : s.run = .stopped) : step s = .next (s.tick 0) := by
  rw [step_of_cpuStep (cpuStep_of_stopped h), advanceDevices_tick_zero]

/-- A halted machine with no source enabled has nothing pending. -/
theorem pending_eq_zero_of_ie {s : State} (h : s.ie.toNat % 32 = 0) : s.pending = 0 := by
  have none : s.ie.extractLsb' 0 5 = 0 := BitVec.eq_of_toNat_eq (by simpa [BitVec.extractLsb'_toNat] using h)
  rw [State.pending, none]
  exact BitVec.zero_and

/-- The machine is halted with no source enabled, so that no step of its own wakes it. -/
structure Quiet (s : State) : Prop where
  run : s.run = .halted
  ie : s.ie.toNat % 32 = 0

theorem step_of_quiet {s : State} (h : Quiet s) : step s = .next (advanceDevices (s.tick s.params.haltTick)) := by
  refine step_of_cpuStep ?_
  rw [cpuStep_of_halted h.run, if_pos (pending_eq_zero_of_ie h.ie)]

theorem Quiet.advance {s : State} (h : Quiet s) (n : Nat) : Quiet (advanceDevices (s.tick n)) :=
  ⟨(advanceDevices_run _).trans h.run, by rw [advanceDevices_ie]; exact h.ie⟩

/-! ## The loop of `run_until_redraw` (`70_reset_and_hazards.md` rule R646) -/

/-- The state in which the loop begins. -/
def runEntry (s : State) : State := { s with driver := .running, ppu.redrawPending := false }

theorem runUntilRedraw_of_initialized {s : State} (h : s.driver ≠ .uninitialized) :
    runUntilRedraw s = runLoop s.params.iterCeiling (runEntry s) := by
  unfold runUntilRedraw
  split
  · exact absurd ‹_› h
  · rfl
  · rfl

theorem runLoop_of_pending {s : State} (h : s.ppu.redrawPending = true) (n : Nat) :
    runLoop n s = .next (s, .frameReady true) := by
  cases n with
  | zero => rw [runLoop, h]
  | succ n => rw [runLoop, if_pos h]

section
variable {s t : State} (h : s.ppu.redrawPending = false)
include h

theorem runLoop_of_cycles (hs : step s = .next t) {c : Nat} (hr : t.report = .cycles c) (n : Nat) :
    runLoop (n + 1) s = runLoop n t := by
  rw [runLoop, if_neg (Bool.eq_false_iff.mp h), hs]
  simp only [hr]

theorem runLoop_of_illegal (hs : step s = .next t) {opcode : Byte} {pc : Word}
    (hr : t.report = .illegalInstruction opcode pc) (n : Nat) :
    runLoop (n + 1) s = .next (t, .raised opcode pc) := by
  rw [runLoop, if_neg (Bool.eq_false_iff.mp h), hs]
  simp only [hr]

theorem runLoop_of_fault {opcode : Byte} {pc : Word} (hs : step s = .fault (.illegalInstruction opcode pc)) (n : Nat) :
    runLoop (n + 1) s = .next (s, .raised opcode pc) := by
  rw [runLoop, if_neg (Bool.eq_false_iff.mp h), hs]

end

/-- Settles O8: a stopped step is a tick of 0 cycles, a faulted one the fault, and the loop begins with that fault. -/
theorem stoppedAndFaultedMachinesStandStill : Obligations.StoppedAndFaultedMachinesStandStill := by
  refine ⟨fun s h => step_of_stopped h, fun s opcode pc h => ⟨step_of_faulted h, fun driver ceiling => ?_⟩,
    fun s bytes => ⟨rfl, fun ok => ?_⟩⟩
  · obtain ⟨n, hn⟩ : ∃ n, s.params.iterCeiling = n + 1 := ⟨_, (Nat.sub_add_cancel ceiling).symm⟩
    rw [runUntilRedraw_of_initialized driver, hn]
    exact runLoop_of_fault rfl (step_of_faulted (s := runEntry s) h) n
  · cases load : deriveCartridge bytes with
    | ok c => rw [loadCartridge_of_ok load]; rfl
    | error e => simp [loadCartridge_of_error load] at ok

/-! ## The display buffer (rules R647 to R649) -/

section
variable {α β : Type} {f : α → List β} {m : Nat} (hf : ∀ a, (f a).length = m)
include hf

theorem length_flatMap_of_length (l : List α) : (l.flatMap f).length = m * l.length := by
  induction l with
  | nil => rfl
  | cons a rest ih => rw [List.flatMap_cons, List.length_append, hf, ih, List.length_cons, Nat.mul_succ, Nat.add_comm]

/-- In blocks of equal length, index `m * i + j` is index `j` of block `i`. -/
theorem getElem?_flatMap_of_length (l : List α) {i j : Nat} (hi : i < l.length) (hj : j < m) :
    (l.flatMap f)[m * i + j]? = (f l[i])[j]? := by
  induction l generalizing i with
  | nil => cases hi
  | cons a rest ih =>
    cases i with
    | zero =>
      rw [List.flatMap_cons, List.getElem?_append_left (by rw [hf]; omega), Nat.mul_zero, Nat.zero_add]
      rfl
    | succ i =>
      have next : m * (i + 1) + j - m = m * i + j := by rw [Nat.mul_succ]; omega
      rw [List.flatMap_cons, List.getElem?_append_right (by rw [hf, Nat.mul_succ]; omega), hf, next]
      exact ih (Nat.lt_of_succ_lt_succ hi)

end

/-- The bytes of one row. -/
def rowBytes (p : Params) (row : Vector Shade 160) : List Byte := row.toList.flatMap (shadeBytes p)

theorem rowBytes_length (p : Params) (row : Vector Shade 160) : (rowBytes p row).length = 640 := by
  rw [rowBytes, length_flatMap_of_length (m := 4) (fun _ => rfl), Vector.length_toList]

theorem frameBytes_length (s : State) : (frameBytes s).length = 92160 := by
  have rows := length_flatMap_of_length (rowBytes_length s.params) s.ppu.front.toList
  rwa [Vector.length_toList] at rows

/-- Byte `c` of the pixel in column `x` of row `y`. -/
theorem frameBytes_getElem? (s : State) {y x c : Nat} (hy : y < 144) (hx : x < 160) (hc : c < 4) :
    (frameBytes s)[4 * (160 * y + x) + c]? = (shadeBytes s.params ((s.ppu.front[y]'hy)[x]'hx))[c]? := by
  have place : 4 * (160 * y + x) + c = 640 * y + (4 * x + c) := by omega
  have row := getElem?_flatMap_of_length (rowBytes_length s.params) s.ppu.front.toList (i := y) (j := 4 * x + c)
    (by simpa using hy) (by omega)
  have pixel := getElem?_flatMap_of_length (f := shadeBytes s.params) (m := 4) (fun _ => rfl)
    (s.ppu.front[y]'hy).toList (i := x) (by simpa using hx) hc
  rw [Vector.getElem_toList] at row pixel
  rw [place, ← pixel]
  exact row

/-- Settles O58: four bytes a pixel, 160 pixels a row, so that a pixel's bytes stand at four times its number. -/
theorem theDisplayBufferShowsTheCompletedFrame : Obligations.TheDisplayBufferShowsTheCompletedFrame := by
  refine fun s => ⟨fun h => ?uninitialized, fun h => ?initialized⟩
  case uninitialized => simp only [displayBuffer, shouldRedrawDisplay, runUntilRedraw, h, and_self]
  case initialized =>
    have query : shouldRedrawDisplay s = .next s.ppu.redrawPending := by
      unfold shouldRedrawDisplay
      split
      · exact absurd ‹_› h
      · rfl
      · rfl
    have buffer : displayBuffer s = .next (frameBytes s) := by
      unfold displayBuffer
      split
      · exact absurd ‹_› h
      · rfl
      · rfl
    refine ⟨query, frameBytes s, buffer, frameBytes_length s, fun y x hy hx => ?_⟩
    intro colour
    have byte := fun c (hc : c < 4) => frameBytes_getElem? s hy hx hc
    exact ⟨byte 0 (by decide), byte 1 (by decide), byte 2 (by decide), byte 3 (by decide)⟩

end Sys2Proof.Machine
end

section
/-! The reset family, `run_until_redraw`: how the loop ends, that a raised flag finds the machine at the start of line
144, and the machines on which the answer is known beforehand. -/

namespace Sys2Proof.Machine

/-! ## How the loop ends (`70_reset_and_hazards.md` rule R646) -/

/-- What a CPU step's parts and a write of IF keep, the step keeps. -/
theorem Closed.cpuStep {P : State → Prop} (hP : Closed P) (hif : ∀ s v, P s → P { s with ifReg := v }) {s t : State}
    (h : P s) (hs : cpuStep s = .next t) : P t := by
  rcases cpuStep_cases hs with ⟨-, rfl⟩ | ⟨-, -, rfl⟩ | ⟨-, q, -, rfl⟩ | ⟨-, -, e⟩
  · exact hP.tick _ _ h
  · exact hP.tick _ _ h
  · exact hP.dispatchIrq hif (hP.run _ _ h) q
  · refine hP.exec (hP.setPc ?_ _) e
    unfold promoteEi
    split
    · exact hP.ei _ _ (hP.ime _ _ (hP.run _ _ h))
    · exact hP.run _ _ h

@[simp] theorem memWrite_redrawPending (s : State) (a : Word) (v : Byte) :
    (memWrite s a v).ppu.redrawPending = s.ppu.redrawPending := by
  rcases memWrite_cases s a v with e | e | ⟨ram, ie, e⟩ <;> rw [e]
  · unfold mbcControl
    split <;> rfl
  · unfold ioWrite
    split
    · rfl
    · rename_i r _
      cases r
      case lcdc =>
        show (lcdcWrite v s).ppu.redrawPending = _
        unfold lcdcWrite
        split
        · rfl
        · split <;> rfl
      case dma => exact congrArg (fun u => u.ppu.redrawPending) (oamCopy_eq v { s with lcd.dma := v })
      all_goals rfl

/-- The CPU does not touch the redraw flag. -/
theorem cpuStep_redrawPending {s t : State} (h : cpuStep s = .next t) : t.ppu.redrawPending = s.ppu.redrawPending :=
  have closed : Closed fun u => u.ppu.redrawPending = s.ppu.redrawPending :=
    .of_devices (fun _ _ _ _ _ _ _ hu => hu) fun u a v hu => (memWrite_redrawPending u a v).trans hu
  closed.cpuStep (fun _ _ hu => hu) rfl h

theorem advanceDevices_of_illegal {s : State} {opcode : Byte} {pc : Word}
    (h : s.report = .illegalInstruction opcode pc) : advanceDevices s = s := by
  rw [advanceDevices, h]

/-- A CPU step that reports the fatal condition has entered FAULTED with its two values (rule R500). -/
theorem cpuStep_run_of_illegal {s t : State} (h : cpuStep s = .next t) {opcode : Byte} {pc : Word}
    (hr : t.report = .illegalInstruction opcode pc) : t.run = .faulted opcode pc := by
  rcases cpuStep_cases h with ⟨-, rfl⟩ | ⟨-, -, rfl⟩ | ⟨-, q, -, rfl⟩ | ⟨-, -, e⟩
  · cases hr
  · cases hr
  · cases (dispatchIrq_took q _).report.symm.trans hr
  · rcases exec_finishes_or_raises (fetchedInstr_wellFormed s) _ with ⟨n, u, finishes, -, -⟩ | ⟨op, raises⟩
    · obtain rfl := (finish_next n u t).mp (finishes.symm.trans e)
      cases hr
    · obtain rfl := (raiseIllegal_next op _ t).mp (raises.symm.trans e)
      obtain ⟨rfl, rfl⟩ := StepReport.illegalInstruction.inj hr
      rfl

/-- A step that reports the fatal condition moves no device. -/
theorem step_of_illegal {s t : State} (h : step s = .next t) {opcode : Byte} {pc : Word}
    (hr : t.report = .illegalInstruction opcode pc) :
    t.run = .faulted opcode pc ∧ t.ppu.redrawPending = s.ppu.redrawPending := by
  obtain ⟨u, e, rfl⟩ := step_cases h
  rw [advanceDevices_report] at hr
  rw [advanceDevices_of_illegal hr]
  exact ⟨cpuStep_run_of_illegal e hr, cpuStep_redrawPending e⟩

/-- How a loop of at most `n` iterations from `s` ends in `t`: with the flag as its answer, clear only at the ceiling, or
with the fatal condition, raised by the last step or found there. -/
inductive LoopEnd (n : Nat) (s t : State) : RunResult → Prop where
  | ready {k : Nat} (hk : k ≤ n) (iterates : Iterates k s t) (full : t.ppu.redrawPending = false → k = n) :
      LoopEnd n s t (.frameReady t.ppu.redrawPending)
  | raised {opcode : Byte} {pc : Word} {k : Nat} {u : State} (hk : k < n) (iterates : Iterates k s u)
      (run : t.run = .faulted opcode pc) (redraw : t.ppu.redrawPending = false)
      (last : (step u = .next t ∧ t.report = .illegalInstruction opcode pc) ∨
        (t = u ∧ step u = .fault (.illegalInstruction opcode pc))) : LoopEnd n s t (.raised opcode pc)

theorem LoopEnd.cons {n : Nat} {s u t : State} {r : RunResult} {c : Nat} (h : s.ppu.redrawPending = false)
    (hs : step s = .next u) (hr : u.report = .cycles c) (rest : LoopEnd n u t r) : LoopEnd (n + 1) s t r := by
  cases rest with
  | ready hk iterates full =>
    exact .ready (Nat.succ_le_succ hk) ⟨h, u, c, hs, hr, iterates⟩ fun clear => congrArg (· + 1) (full clear)
  | raised hk iterates run redraw last =>
    exact .raised (Nat.succ_lt_succ hk) ⟨h, u, c, hs, hr, iterates⟩ run redraw last

theorem KeepsLoad.trans {s t u : State} (h : KeepsLoad s t) (h' : KeepsLoad t u) : KeepsLoad s u :=
  ⟨h'.cart.trans h.cart, h'.params.trans h.params, h'.driver.trans h.driver⟩

/-- The loop always ends, by induction on the iterations left. -/
theorem runLoop_ends (n : Nat) (s : State) :
    ∃ t r, runLoop n s = .next (t, r) ∧ KeepsLoad s t ∧ LoopEnd n s t r := by
  induction n generalizing s with
  | zero => exact ⟨s, _, rfl, ⟨rfl, rfl, rfl⟩, .ready le_rfl rfl fun _ => rfl⟩
  | succ n ih =>
    cases h : s.ppu.redrawPending with
    | true =>
      have answer : LoopEnd (n + 1) s s (.frameReady s.ppu.redrawPending) :=
        .ready (Nat.zero_le _) rfl fun clear => by simp [h] at clear
      exact ⟨s, _, runLoop_of_pending h _, ⟨rfl, rfl, rfl⟩, h ▸ answer⟩
    | false =>
      rcases step_completes_or_faulted s with ⟨u, hs⟩ | ⟨opcode, pc, run, hs⟩
      · cases hr : u.report with
        | cycles c =>
          obtain ⟨t, r, e, keeps, rest⟩ := ih u
          exact ⟨t, r, (runLoop_of_cycles h hs hr n).trans e, (step_keepsLoad hs).trans keeps, rest.cons h hs hr⟩
        | illegalInstruction opcode pc =>
          obtain ⟨run, redraw⟩ := step_of_illegal hs hr
          exact ⟨u, _, runLoop_of_illegal h hs hr n, step_keepsLoad hs,
            .raised (Nat.succ_pos n) rfl run (redraw.trans h) (.inl ⟨hs, hr⟩)⟩
      · exact ⟨s, _, runLoop_of_fault h hs n, ⟨rfl, rfl, rfl⟩,
          .raised (Nat.succ_pos n) rfl run h (.inr ⟨rfl, hs⟩)⟩

/-! ## Where a raised flag finds the machine (`60_exceptions.md` rule R553) -/

/-- Line 144 has begun, fewer than `c` dots ago. -/
structure VBlankBegun (c : Nat) (t : State) : Prop where
  ly : t.lcd.ly = 144
  dot : t.ppu.dot < c
  mode : t.ppu.mode = .vBlank
  requested : t.ifReg.getLsbD 0 = true

/-- Only the entry to v-blank raises the flag. -/
theorem DotEvent.vBlankBegun {s t : State} (h : DotEvent s t) (hs : s.ppu.redrawPending = false)
    (ht : t.ppu.redrawPending = true) : VBlankBegun 1 t := by
  cases h with
  | vBlank hdot hly =>
    obtain ⟨mode, ly⟩ := (DotEvent.vBlank hdot hly).mode_vBlank hdot hly
    refine ⟨ly, ?_, mode, ?_⟩
    · rw [lycCheck_ppu, enterVBlank_dot]
      exact Nat.one_pos
    · rw [(enterVBlank_dotEffect s).request_zero, Bool.or_true]
  | quiet => cases hs.symm.trans ht
  | hBlank => rw [enterHBlank_redrawPending] at ht; cases hs.symm.trans ht
  | oamScan | newFrame => rw [lycCheck_ppu, enterOamScan_redrawPending] at ht; cases hs.symm.trans ht
  | blankLine => rw [lycCheck_ppu] at ht; cases hs.symm.trans ht

/-- Within line 144 a dot is only counted. -/
theorem VBlankBegun.dotEvent {c : Nat} {s t : State} (h : VBlankBegun c s) (hc : c ≤ 455) (event : DotEvent s t) :
    VBlankBegun (c + 1) t := by
  obtain ⟨ly, dot, mode, requested⟩ := h
  have line : s.lcd.ly.toNat = 144 := congrArg BitVec.toNat ly
  cases event with
  | quiet => exact ⟨ly, Nat.succ_lt_succ dot, (if_neg (by omega)).trans mode, requested⟩
  | hBlank | vBlank | oamScan | newFrame | blankLine => omega

theorem ppuDots_vBlankBegun {s : State} (h : s.ppu.redrawPending = false) {c : Nat} (hc : c ≤ 455)
    (hr : (ppuDots c s).ppu.redrawPending = true) : VBlankBegun c (ppuDots c s) := by
  induction c with
  | zero => cases h.symm.trans hr
  | succ c ih =>
    rw [ppuDots_succ] at hr ⊢
    have event := ppuDot_dotEvent (ppuDots c s)
    cases hprev : (ppuDots c s).ppu.redrawPending with
    | true => exact (ih (by omega) hprev).dotEvent (by omega) event
    | false =>
      obtain ⟨ly, dot, mode, requested⟩ := event.vBlankBegun hprev hr
      exact ⟨ly, by omega, mode, requested⟩

theorem timerAdvance_ppu (c : Nat) (s : State) : (timerAdvance c s).ppu = s.ppu := by
  rw [timerAdvance_eq]

theorem ppuAdvance_vBlankBegun {s : State} (h : s.ppu.redrawPending = false) {c : Nat} (hc : c ≤ 455)
    (hr : (ppuAdvance c s).ppu.redrawPending = true) : VBlankBegun c (ppuAdvance c s) := by
  unfold ppuAdvance at hr ⊢
  split at hr
  · rw [if_pos ‹_›]
    exact ppuDots_vBlankBegun h hc hr
  · cases h.symm.trans hr

/-- Where a halted tick is no longer than an instruction, a step takes at most 24 cycles or raises the fatal condition. -/
theorem cpuStep_report_le {s t : State} (h : cpuStep s = .next t) (htick : s.params.haltTick ≤ 24) :
    (∃ n ≤ 24, t.report = .cycles n) ∨ ∃ opcode pc, t.report = .illegalInstruction opcode pc := by
  rcases cpuStep_books h with ⟨-, took⟩ | ⟨-, took⟩ | ⟨-, ⟨n, took, duration⟩ | ⟨opcode, pc, hr, -⟩⟩
  · exact .inl ⟨0, by decide, took.report⟩
  · exact .inl ⟨_, htick, took.report⟩
  · exact .inl ⟨n, duration.2.2, took.report⟩
  · exact .inr ⟨opcode, pc, hr⟩

/-- A step that raises the flag ends within the first 24 dots of line 144. -/
theorem step_vBlankBegun {s t : State} (hs : step s = .next t) (htick : s.params.haltTick ≤ 24)
    (h : s.ppu.redrawPending = false) (hr : t.ppu.redrawPending = true) : VBlankBegun 24 t := by
  obtain ⟨u, e, rfl⟩ := step_cases hs
  have hu : u.ppu.redrawPending = false := (cpuStep_redrawPending e).trans h
  rcases cpuStep_report_le e htick with ⟨n, hn, report⟩ | ⟨opcode, pc, report⟩
  · rw [advanceDevices_of_cycles report] at hr ⊢
    have clear : (timerAdvance n u).ppu.redrawPending = false := by rw [timerAdvance_ppu, hu]
    obtain ⟨ly, dot, mode, requested⟩ := ppuAdvance_vBlankBegun clear (by omega) hr
    exact ⟨ly, by omega, mode, requested⟩
  · rw [advanceDevices_of_illegal report] at hr
    cases hu.symm.trans hr

/-- Each iteration begins with the flag clear, so it is the last one that has raised it. -/
theorem Iterates.vBlankBegun {n : Nat} {s t : State} (h : Iterates n s t) (htick : s.params.haltTick ≤ 24)
    (start : s.ppu.redrawPending = true → VBlankBegun 24 s) (hr : t.ppu.redrawPending = true) : VBlankBegun 24 t := by
  induction n generalizing s with
  | zero =>
    obtain rfl : t = s := h
    exact start hr
  | succ n ih =>
    obtain ⟨clear, u, c, hs, -, rest⟩ := h
    have params := (step_keepsLoad hs).params
    exact ih rest (by rwa [params]) fun raised => step_vBlankBegun hs htick clear raised

/-! ## The machines that never complete a frame (rules R506, R507, R558) -/

/-- The machine is stopped, or quiet with the LCD off. -/
def NeverDraws (s : State) : Prop := s.run = .stopped ∨ (Quiet s ∧ s.lcdOn = false)

theorem ppuAdvance_of_off {s : State} (h : s.lcdOn = false) (c : Nat) : ppuAdvance c s = s :=
  if_neg (Bool.eq_false_iff.mp h)

theorem timerAdvance_lcd (c : Nat) (s : State) : (timerAdvance c s).lcd = s.lcd := by
  rw [timerAdvance_eq]

/-- With the LCD off the devices leave the LCD and the PPU alone. -/
theorem advanceDevices_of_off {s : State} (h : s.lcdOn = false) :
    (advanceDevices s).lcd = s.lcd ∧ (advanceDevices s).ppu = s.ppu := by
  unfold advanceDevices
  split
  · rw [ppuAdvance_of_off (by rwa [State.lcdOn, timerAdvance_lcd])]
    exact ⟨timerAdvance_lcd _ s, timerAdvance_ppu _ s⟩
  · exact ⟨rfl, rfl⟩

theorem NeverDraws.step {s : State} (h : NeverDraws s) :
    ∃ t n, Machine.step s = .next t ∧ t.report = .cycles n ∧ NeverDraws t ∧
      t.ppu.redrawPending = s.ppu.redrawPending := by
  rcases h with stopped | ⟨quiet, off⟩
  · exact ⟨_, 0, step_of_stopped stopped, rfl, .inl stopped, rfl⟩
  · obtain ⟨lcd, ppu⟩ := advanceDevices_of_off (s := s.tick s.params.haltTick) off
    have still : (advanceDevices (s.tick s.params.haltTick)).lcdOn = false := by
      rw [State.lcdOn, lcd]
      exact off
    exact ⟨_, s.params.haltTick, step_of_quiet quiet, advanceDevices_report _, .inr ⟨quiet.advance _, still⟩,
      congrArg Ppu.redrawPending ppu⟩

theorem runLoop_of_neverDraws {s : State} (h : NeverDraws s) (hr : s.ppu.redrawPending = false) (n : Nat) :
    ∃ t, runLoop n s = .next (t, .frameReady false) := by
  induction n generalizing s with
  | zero => exact ⟨s, by rw [runLoop, hr]⟩
  | succ n ih =>
    obtain ⟨t, c, hs, report, again, redraw⟩ := h.step
    rw [runLoop_of_cycles hr hs report]
    exact ih again (redraw.trans hr)

/-! ## A quiet machine at the start of a frame (rules R506, R645) -/

theorem FrameAt.congr {k : Nat} {s t : State} (h : FrameAt k s) (hlcd : t.lcd = s.lcd) (hppu : t.ppu = s.ppu) :
    FrameAt k t := by
  obtain ⟨ly, dot, mode, redraw⟩ := h
  constructor <;> simpa only [hlcd, hppu]

/-- A quiet machine with ticks of one cycle and the LCD on. -/
structure QuietByDots (s : State) : Prop where
  quiet : Quiet s
  tick : s.params.haltTick = 1
  on : s.lcdOn = true

/-- Its step is one dot. -/
theorem QuietByDots.step {s : State} (h : QuietByDots s) {k : Nat} (frame : FrameAt k s) :
    ∃ t, Machine.step s = .next t ∧ t.report = .cycles 1 ∧ t.cycles = s.cycles + 1 ∧ QuietByDots t ∧
      FrameAt (k + 1) t := by
  have dot : advanceDevices (s.tick 1) = ppuDot (timerCycle (s.tick 1)) := by
    have on : (timerCycle (s.tick 1)).lcdOn = true := by
      rw [State.lcdOn, timerCycle_lcd]
      exact h.on
    rw [advanceDevices_of_cycles (State.tick_report s 1)]
    exact ppuAdvance_of_on on 1
  have next := step_of_quiet h.quiet
  rw [h.tick] at next
  refine ⟨_, next, advanceDevices_report _, advanceDevices_cycles _, ⟨h.quiet.advance 1, ?_, ?_⟩, ?_⟩
  · rw [advanceDevices_params]
    exact h.tick
  · rw [advanceDevices_eq]
    exact h.on
  · rw [dot]
    exact (frame.congr (by rw [timerCycle_lcd]; rfl) (by rw [timerCycle_ppu]; rfl)).ppuDot

/-- It reaches line 144 after the dots that are left of the 144 visible lines. -/
theorem runLoop_of_quietByDots {s : State} (h : QuietByDots s) {k m : Nat} (frame : FrameAt k s) (hk : k + m = 65664)
    {n : Nat} (hn : m ≤ n) :
    ∃ t, runLoop n s = .next (t, .frameReady true) ∧ t.cycles = s.cycles + m ∧ FrameAt 65664 t := by
  induction m generalizing s k n with
  | zero =>
    obtain rfl : k = 65664 := hk
    exact ⟨s, runLoop_of_pending (frame.redraw.mpr le_rfl) n, rfl, frame⟩
  | succ m ih =>
    obtain ⟨n, rfl⟩ : ∃ j, n = j + 1 := ⟨n - 1, by omega⟩
    have clear : s.ppu.redrawPending = false := Bool.eq_false_iff.mpr (mt frame.redraw.mp (by omega))
    obtain ⟨u, hs, report, cycles, again, frame'⟩ := h.step frame
    obtain ⟨t, e, cycles', last⟩ := ih again frame' (by omega) (Nat.le_of_succ_le_succ hn)
    rw [runLoop_of_cycles clear hs report]
    exact ⟨t, e, by omega, last⟩

/-! ## The obligation -/

/-- What `run_until_redraw` answers is what its loop ends with. -/
theorem runUntilRedraw_loopEnd {s t : State} {r : RunResult} (h : s.driver ≠ .uninitialized)
    (answer : runUntilRedraw s = .next (t, r)) : LoopEnd s.params.iterCeiling (runEntry s) t r := by
  obtain ⟨u, q, loop, -, ends⟩ := runLoop_ends s.params.iterCeiling (runEntry s)
  rw [runUntilRedraw_of_initialized h, loop] at answer
  obtain ⟨rfl, rfl⟩ := Prod.mk.inj (Host.Outcome.next.inj answer)
  exact ends

/-- An answer that a frame is ready is given within the first 24 dots of line 144. -/
theorem runUntilRedraw_vBlankBegun {s t : State} (h : s.driver ≠ .uninitialized) (htick : s.params.haltTick ≤ 24)
    (answer : runUntilRedraw s = .next (t, .frameReady true)) : VBlankBegun 24 t := by
  generalize hr : RunResult.frameReady true = r at answer
  cases runUntilRedraw_loopEnd h answer with
  | ready _ iterates _ => exact iterates.vBlankBegun htick nofun (RunResult.frameReady.inj hr).symm
  | raised => cases hr

/-- Settles O59: the loop's end by induction on the ceiling, the place of the machine from the last iteration, and the
machines whose steps are known by induction on those steps. -/
theorem runUntilRedrawStopsAtTheNextVBlank : Obligations.RunUntilRedrawStopsAtTheNextVBlank := by
  intro s initialized entry answers quiet
  have run : runUntilRedraw s = runLoop s.params.iterCeiling entry := runUntilRedraw_of_initialized initialized
  refine ⟨?ends, fun ready t answer => ?ready, fun opcode pc t answer => ?raised, fun htick t answer => ?vBlank,
    fun still => ?never, fun idle tick ceiling on ly dot mode => ?frame⟩
  case ends =>
    obtain ⟨t, r, loop, keeps, -⟩ := runLoop_ends s.params.iterCeiling entry
    exact ⟨r, t, run.trans loop, keeps.driver⟩
  case ready =>
    cases runUntilRedraw_loopEnd initialized answer with
    | ready hk iterates full => exact ⟨rfl, _, hk, iterates, full⟩
  case raised =>
    cases runUntilRedraw_loopEnd initialized answer with
    | raised hk iterates run redraw last => exact ⟨run, redraw, _, hk, _, iterates, last⟩
  case vBlank =>
    obtain ⟨ly, dot, mode, requested⟩ := runUntilRedraw_vBlankBegun initialized htick answer
    exact ⟨ly, dot, mode, requested⟩
  case never =>
    have never : NeverDraws entry := still.imp_right fun ⟨⟨halted, ie⟩, off⟩ => ⟨⟨halted, ie⟩, off⟩
    obtain ⟨t, loop⟩ := runLoop_of_neverDraws never rfl s.params.iterCeiling
    exact ⟨t, run.trans loop⟩
  case frame =>
    have byDots : QuietByDots entry := ⟨⟨idle.1, idle.2⟩, tick, on⟩
    have start : FrameAt 0 entry := .start ly dot mode rfl
    obtain ⟨t, loop, cycles, frame⟩ := runLoop_of_quietByDots byDots start (Nat.zero_add _) ceiling
    have answer : runUntilRedraw s = .next (t, .frameReady true) := run.trans loop
    obtain ⟨ly, -, mode, requested⟩ := runUntilRedraw_vBlankBegun initialized (by omega) answer
    exact ⟨t, answer, cycles, ly, frame.dot, mode, requested⟩

end Sys2Proof.Machine
end
